-- ==== Sys2Proof/Word.lean ====
section
/-! DEFINITION. The word types of the block: bytes, the 16-, 32- and 64-bit words of the manual's tables (little-endian
throughout, R3), and binary32 patterns (R141). -/
namespace Sys2Proof

abbrev Byte := BitVec 8
abbrev W16 := BitVec 16
abbrev W32 := BitVec 32
abbrev W64 := BitVec 64
abbrev Bytes := List Byte
/-- An FP32 value is held as its binary32 bit pattern (R141). -/
abbrev F32 := BitVec 32
/-- An FP16 value is held as its binary16 bit pattern. -/
abbrev F16 := BitVec 16

end Sys2Proof
end

