-- ==== Sys2Proof/Syntax.lean ====
section
/-! DEFINITION. The commands of the block: one constructor of `Instr` for each row of spec/opcode_table.json.
The table gives the rows no operands and no bits. A command's operands here are what the manual's text says it carries
(an address, a value, an entry), and what reaches the device from outside at that step: data that a read of host memory
returned (`none`: the read failed), a measured delay, a sensor's reading, the outcome of a signature check. -/
namespace Sys2Proof

/-! ### Ring commands (03, 15) -/

/-- Command header (R387) with where the command was read: function, ring, TAG. `rsv`: some reserved bit is nonzero (R6). -/
structure CmdHdr where
  fn : Nat
  ring : Nat
  tag : W64
  rsv : Bool
  deriving DecidableEq, Repr

/-- Admission image: the fields of the call-sheet entry layout that are set at ADMIT.
`other`: a device-owned or reserved bit of the image is nonzero. -/
structure AdmitImage where
  reel : BitVec 2
  tenant : BitVec 5
  prio : BitVec 3
  lateAct : BitVec 2
  plCount : BitVec 10
  plCap : BitVec 10
  outRing : BitVec 6
  plPtr : BitVec 48
  dlNext : BitVec 16
  dlEnd : BitVec 48
  maskState : BitVec 16
  smpPtr : BitVec 48
  maskTbl : BitVec 8
  stopPtr : BitVec 48
  stopCnt : BitVec 6
  maxNew : BitVec 22
  seed : W64
  userTag : W64
  other : Bool
  deriving DecidableEq, Repr

/-- Object descriptor: the fields of the object-table entry set at OBJ_MAP (R289). `other`: a device-owned or reserved
bit is nonzero. -/
structure ObjDesc where
  cls : BitVec 3
  prot : Bool
  layout : BitVec 2
  home : Bool
  shared : Bool
  tenant : BitVec 5
  hdim : BitVec 2
  nps : BitVec 11
  base : BitVec 43
  size : BitVec 23
  chMask : W32
  stMask : W32
  digestAddr : BitVec 43
  masterAddr : BitVec 63
  masterHost : Bool
  stripeAddr : BitVec 43
  other : Bool
  deriving DecidableEq, Repr

/-- Unit record of a stripe descriptor (R285). -/
structure StripeUnit where
  stack : BitVec 5
  chan : BitVec 5
  bank : BitVec 5
  gran : BitVec 6
  deriving DecidableEq, Repr

/-- Matrix record of a stripe descriptor (R285). -/
structure StripeMat where
  voff : BitVec 43
  uoffKb : BitVec 17
  g : BitVec 10
  o : BitVec 17
  codeW : BitVec 3
  spu : BitVec 8
  unit0 : BitVec 16
  deriving DecidableEq, Repr

/-- Stripe descriptor (R285). `rsv`: a reserved bit is nonzero. -/
structure StripeDesc where
  unitCnt : BitVec 16
  matCnt : BitVec 11
  ngran : BitVec 6
  viewG : BitVec 24
  units : List StripeUnit
  mats : List StripeMat
  rsv : Bool
  deriving DecidableEq, Repr

/-- Coded-tensor table image (R326): LEN[0..255]. `bad`: VERSION is not 1 or a reserved byte is nonzero. -/
structure TableImage where
  bad : Bool
  lens : List Nat
  deriving DecidableEq, Repr

/-! ### Planning and the frame (02, 04) -/

/-- Charged delay of a Roll by slip cause (R50), in ns; `retake` is the retake time beyond the reserve. -/
structure Charges where
  weightLate : Nat
  retakeOver : Nat
  refreshOver : Nat
  throttled : Nat
  linkWait : Nat
  hostWait : Nat
  deriving DecidableEq, Repr

/-- What a TICK brings beside itself: whether no ring command follows in this Slate (`close`), so that the whole Slate, its closing
included, lies in this step. -/
structure TickIn where
  close : Bool
  deriving DecidableEq, Repr

/-- What the device measured of the Roll that ends (R50, R113): Roll time, retake time, weight wait, its charged causes,
the first stage that waited, refresh commands issued, and the rows that each bank had idle cycles to zero (R295): `idleRows`, or what
`idleBanks` gives a bank by its key. -/
structure RollReport where
  rollNs : Nat
  overrunUs : Nat
  retakeNs : Nat
  waitNs : Nat
  charges : Charges
  waitStage : W16
  waitReel : BitVec 2
  refreshUsed : Nat
  idleRows : Nat
  idleBanks : List (Nat × Nat)
  deriving DecidableEq, Repr

/-! ### Registers (17) -/

/-- The rings that hold a HEAD written by the host (R276). -/
inductive HeadRing where
  | output (r : Nat)
  | event
  | errorLog
  deriving DecidableEq, Repr

/-- A REG record of an image (R447): BAR0 offset, ALL, LSB, WIDTH, VALUE. -/
structure RegRec where
  off : Nat
  all : Bool
  lsb : Nat
  width : Nat
  value : Nat
  deriving DecidableEq, Repr

/-- A MACHINE record (R449). -/
structure MachRec where
  state : Nat
  event : Nat
  next : Nat
  action : Nat
  param : Nat
  deriving DecidableEq, Repr

/-- A curve of R450: its ID, whether it is LINEAR, and its points. -/
structure CurveRec where
  id : Nat
  linear : Bool
  pts : List (Int × Int)
  deriving DecidableEq, Repr

/-- A COST record of R451 with the table that holds it. -/
structure CostRec where
  table : Nat
  key : Nat
  base : Nat
  per : Nat
  clock : Nat
  deriving DecidableEq, Repr

/-- A base configuration or overlay as its checks read it (R443 to R453). `sigOk` and `formOk`: the signature verifies,
and the checks that need bytes not kept here (magic, lengths, directory) pass. `mode` is none for an overlay's 0xFF. -/
structure CfgImage where
  sigOk : Bool
  formOk : Bool
  imageLen : Nat
  mode : Option (BitVec 5)
  slot : Nat
  startup : Bool
  version : W32
  regs : List RegRec
  mach : List (Nat × Nat × List MachRec)
  curves : List CurveRec
  costs : List CostRec
  start : List (Nat × Nat)
  digest : BitVec 384
  deriving DecidableEq, Repr

/-! ### DMA (12) -/

/-- DMA descriptor (R312). `devBits`: bytes 0x30 to 0x3F or a reserved bit are nonzero. -/
structure DmaDesc where
  op : Byte
  stopOnErr : Bool
  event : Bool
  srcSpace : BitVec 2
  dstSpace : BitVec 2
  peer : BitVec 4
  cwidth : BitVec 3
  f32 : Bool
  lastRowsM1 : BitVec 7
  blockCnt : W32
  srcAddr : W64
  dstAddr : W64
  srcLen : BitVec 37
  dstLen : BitVec 37
  userTag : W64
  devBits : Bool
  deriving DecidableEq, Repr

/-- An engine starting a descriptor: the function and queue it is taken from, the descriptor as read, the source bytes that
host memory or the peer returned (used for those spaces), the 64-byte source units whose read failed (R331), and those whose read was
corrected (R235, R339). -/
structure DmaIn where
  fn : Nat
  queue : Nat
  desc : DmaDesc
  hostData : Bytes
  bad : List Nat
  corr : List Nat
  deriving DecidableEq, Repr

/-! ### Links (14) -/

/-- A packet as it arrives (R364). `tagOk`: its GCM or GMAC tag verifies at this device; `data` is the decrypted data. -/
structure Packet where
  op : BitVec 4
  dst : BitVec 4
  src : BitVec 4
  tc : BitVec 2
  tenant : BitVec 5
  keySel : Bool
  enc : Bool
  fin : Bool
  redOp : BitVec 2
  lenM1 : BitVec 12
  members : W16
  xfer : BitVec 12
  addr : BitVec 43
  encId : BitVec 4
  outAddr : BitVec 43
  ctr : W64
  data : Bytes
  tagOk : Bool
  dl : Bool
  deriving DecidableEq, Repr

/-! ### Stages (05 to 10) -/

/-- A stage's work on one micro-batch: reel slot, stage-plan index, micro-batch number of the committed plan, the stages
whose outputs it takes, the SRAM slot it fills, and the SRAM errors that replica `rep` meets (R140: uncorrectable errors of one
staging tile, of a slot, and corrected errors). -/
structure StageIn where
  reel : Nat
  stage : Nat
  mb : Nat
  src : List Nat
  slot : Nat
  rep : Nat
  tileUe : Nat
  slotUe : Bool
  corrected : Nat
  deriving DecidableEq, Repr

/-- Prompt tokens that the device read for one entry's chunk (R65); `none` is a failed read (R510). -/
structure ChunkTokens where
  entry : Nat
  toks : List (Option W32)
  deriving DecidableEq, Repr

/-- A read of the cache: the key (or the value: `val`) of a position. -/
structure KvRead where
  pos : Nat
  val : Bool
  deriving DecidableEq, Repr

/-- Reads of one entry and pair that meet an uncorrectable error, and reads of them that were corrected (R193). -/
structure CacheUe where
  entry : Nat
  pair : Nat
  bad : List KvRead
  corr : List KvRead
  deriving DecidableEq, Repr

/-- Errors that reads of unified addresses meet: addresses whose read is uncorrectable, and addresses whose read was corrected, by the
row's code (R235) or by link ECC (R339). -/
structure ReadErrs where
  bad : List Nat
  corr : List Nat
  deriving DecidableEq, Repr

/-- A read through BAR2: its length, and the errors that it meets. -/
structure ReadIn where
  len : Nat
  errs : ReadErrs
  deriving DecidableEq, Repr

/-- A daily check of a stack, and the rows (bank and row) that do not take the repair of a mask copy (R233, R257). -/
structure DailyIn where
  stack : Nat
  stuck : List (Nat × Nat)
  deriving DecidableEq, Repr

/-- A migration engine's copy of a granule: a read of its source is uncorrectable, reads that were corrected, and whether the copy commits
within the step or is left in progress (R300, R339). -/
structure CopyIn where
  failed : Bool
  corr : Nat
  commits : Bool
  deriving DecidableEq, Repr

/-- One bank: stack, memory channel, bank. -/
structure BankId where
  stack : Nat
  chan : Nat
  bank : Nat
  deriving DecidableEq, Repr

/-- What the data level of JTAG debug reads (R428): an array's SRAM, accumulators or post-unit registers, the vector registers, the
scalar registers or the row buffer of a bank unit, or the rows of a bank. -/
inductive DebugPart where
  | sram (array : Nat)
  | accumulators (array : Nat)
  | postUnit (array : Nat)
  | unitV (u : BankId)
  | unitS (u : BankId)
  | unitRb (u : BankId)
  | rows (u : BankId)
  deriving DecidableEq, Repr

/-- The run that a switch to processor mode prepares (R204, R205, R209): the reel slot and stage whose bank program it is, its tokens, and
whether its phase-0 input is wide. -/
structure RunIn where
  reel : Nat
  stage : Nat
  n : Nat
  wide : Bool
  deriving DecidableEq, Repr

/-- Who issues a ZERO (R240): a bank unit on window row S[D], or the hub's strike path on any row. -/
inductive ZeroBy where
  | unit (u : BankId) (d : BitVec 4)
  | hub (u : BankId) (row : Nat)
  deriving DecidableEq, Repr

/-! ### Operating events (13, 16, 18, 19, 20) -/

/-- A monitor's periodic reading (R463): slack of an array's replica, shift of an oscillator, eye height of a lane, receiver margin, a
sensor's temperature, or voltage and current of a rail. -/
inductive Reading where
  | replica (array : Nat) (slackPs : Int)
  | rosc (osc : Nat) (ppm : Int)
  | eye (port lane mv : Nat)
  | pcieMargin (v : Nat)
  | temp (sensor celsius : Nat)
  | power (rail mv deciAmp : Nat)
  deriving DecidableEq, Repr

/-- One object of a START bundle with its data (R494): object number, descriptor, stripe descriptor, data, digest. -/
structure BundleObj where
  obj : Nat
  desc : ObjDesc
  stripe : Option StripeDesc
  data : Bytes
  digestOk : Bool
  deriving DecidableEq, Repr

/-- A START bundle (R494): the reel slot, its objects, the unified address of the reel image header, the outcome of
the bundle's own checks, and the digest that REELS is extended by. -/
structure Bundle where
  slot : Nat
  objs : List BundleObj
  reelAddr : W64
  formOk : Bool
  digest : BitVec 384
  deriving DecidableEq, Repr

/-- A REELS file that the recovery window brings: the outcome of its verification, and the bundle that it holds (R493, R494). -/
structure FileIn where
  verified : Bool
  bundle : Option Bundle
  deriving DecidableEq, Repr

/-- A flash block as the translation layer knows it (R345 to R348): erases, reads since its data was written, whether it is bad, and the
region whose data it holds, none of a free block. -/
structure FlashBlk where
  erases : Nat
  reads : Nat
  bad : Bool
  region : Option Nat
  deriving DecidableEq, Repr

/-- Reads of a flash block (R346, R348): how many, those retried with a read-voltage offset and those that every offset failed, whether
the worst codeword needed more than 75 % of the correction capacity; and the free block that its data goes to if it is rewritten. -/
structure FlashRead where
  fresh : Nat
  reads : Nat
  retried : Nat
  uncorr : Nat
  worst : Bool
  deriving DecidableEq, Repr

/-- A flash block whose erase or program fails, and the free block that its data is written to (R346). -/
structure FlashMove where
  block : Nat
  fresh : Nat
  deriving DecidableEq, Repr

/-- What the start-up chain finds (R402): identity, firmware copies and their digests and SVN, the base configuration and
the stored overlays, the retired-granule maps, board geometry, the flash parts with the blocks that their metadata shows and the
start-up reads, DEVICE_ID and the START bundles. -/
structure BootIn where
  pufOk : Bool
  copyA : Bool
  copyB : Bool
  svn : W32
  romDigest : BitVec 384
  mtpDigest : BitVec 384
  devDigest : BitVec 384
  modeDigest : BitVec 384
  deviceId : BitVec 256
  base : CfgImage
  overlays : List CfgImage
  retired : List (Nat × Nat)
  boardRetired : List Nat
  boardOk : Bool
  flashBytes : Nat
  blockBytes : Nat
  flashBlocks : List (Nat × FlashBlk)
  flashReads : List (Nat × FlashRead)
  pcieWidth : Nat
  pcieSpeed : Nat
  torusId : BitVec 128
  bundles : List Bundle
  deriving DecidableEq, Repr

inductive Instr where
  -- the frame (02)
  | tick (i : TickIn)
  | openCutoff
  | rollBegin (gatherClk : List Nat)
  | wrapDue (r : RollReport) (rollComplete : Bool)
  | rollComplete (r : RollReport)
  | wrapResume
  | frameInterrupt
  | wrapDoneReport
  | slipLimit
  | failStorm
  | ringStall
  | fsyncEdge (offsetNs : Int)
  | fsyncMiss
  | fsyncLost
  | beaconMiss
  | beaconLost
  | peerSilent (dev : Nat)
  | run (v : Bool)
  | gate (v : Bool)
  -- register pages (17) and rings (12, 15)
  | discard (fn page : Nat)
  | softReset (page : Nat)
  | softResetDone (page : Nat)
  | blkCtlEnable (page : Nat) (v : Bool)
  | haltAtTick (page : Nat) (v : Bool)
  | blkErrClear (fn page : Nat) (mask : W32)
  | registerWrite (fn off : Nat) (v : W64)
  | readToClear (fn off : Nat)
  | hubTodWrite (v : W64)
  | sqDoorbell (fn ring : Nat) (tail : W32)
  | xpdTailWrite (fn queue : Nat) (tail : W32)
  | ringHeadWrite (fn : Nat) (ring : HeadRing) (head : W32)
  | resume (fn queue : Nat)
  | csvFirstWrite (fn : Nat) (first : BitVec 13)
  | rgnBoundWrite (stack chan : Nat) (bound : BitVec 6)
  | conversionDone (stack : Nat)
  | cfgStageGo (img : Option CfgImage)
  | cfgStageDone
  | erlResetKey (key : W16)
  | runFirmware (verified : Bool)
  | bootCopyA (verified : Bool)
  | bootCopyB (verified : Bool)
  | configBase (img : Option CfgImage)
  | reelsFile (file : FileIn)
  | recoveryDone (ok : Bool)
  -- ring commands (03, 05, 07, 11, 12, 17, 18)
  | admitEntry (h : CmdHdr) (entry : W16) (img : Option AdmitImage) (ue : List Nat)
  | feed (h : CmdHdr) (entry : W16) (ptr : W64) (len : BitVec 22) (go : Bool) (newState : W16) (setState : Bool)
  | draft (h : CmdHdr) (entry : W16) (count : BitVec 4) (toks : List (BitVec 18))
  | release (h : CmdHdr) (entry : W16)
  | cancel (h : CmdHdr) (entry : W16)
  | setPrio (h : CmdHdr) (entry : W16) (prio : BitVec 3)
  | setDeadline (h : CmdHdr) (entry : W16) (lateAct : BitVec 2) (dlNext : W16) (dlEnd : BitVec 48)
  | pageEdit (h : CmdHdr) (entry : W16) (index count : BitVec 10)
  | fence (h : CmdHdr)
  | reelLoad (h : CmdHdr) (slot : BitVec 2) (addr : W64)
  | reelLoadComplete (slot : BitVec 2) (digest : BitVec 384) (ue : List Nat) (copiesOk : Bool)
  | reelUnload (h : CmdHdr) (slot : BitVec 2)
  | reelUnloadComplete (slot : BitVec 2) (digest : BitVec 384)
  | objMap (h : CmdHdr) (obj : W16) (desc : Option ObjDesc) (stripe : Option StripeDesc)
  | claim (h : CmdHdr) (obj : W16) (forBit : BitVec 6)
  | unclaim (h : CmdHdr) (obj : W16) (forBit : BitVec 6)
  | objUnmap (h : CmdHdr) (obj : W16)
  | tableLoad (h : CmdHdr) (queue : BitVec 3) (slot : BitVec 4) (gen : Byte) (addr : W64) (img : Option TableImage)
  | tableLoadEffect (fn queue : Nat)
  | overlayApply (h : CmdHdr) (slot : BitVec 3) (source : BitVec 2)
  | statsSnapshot (h : CmdHdr) (ledgerN : BitVec 6) (dest : W64)
  | ringFetch (fn ring : Nat)
  -- the MTP mailbox and revocation (16)
  | tenantCreate (seq : Byte)
  | tenantRemove (seq : Byte)
  | torusExport (seq : Byte) (blobLen : Nat)
  | torusWrap (seq : Byte) (verified : Bool) (blobLen : Nat)
  | torusInstall (seq : Byte) (verified : Bool) (torusId : BitVec 128) (epochs : List W32)
  | logRead (seq : Byte)
  | revocationComplete (tenant : Nat)
  | revokeDrained (tenant : Nat)
  -- DMA (12)
  | copy (d : DmaIn)
  | expandFb (d : DmaIn)
  | expandCt (d : DmaIn)
  | compress (d : DmaIn)
  | descFetchFail (fn queue : Nat)
  | heldRecordFlush (fn : Nat) (errorLog : Bool)
  | eventHoldoff (fn : Nat)
  -- links (14)
  | pktWrite (port : Nat) (p : Packet)
  | pktReadReq (port : Nat) (p : Packet)
  | pktReadResp (port : Nat) (p : Packet)
  | pktCheck (port : Nat) (p : Packet)
  | pktCheckResp (port : Nat) (p : Packet)
  | pktReduce (port : Nat) (p : Packet)
  | pktBeacon (port : Nat) (p : Packet)
  | pktWrapDone (port : Nat) (p : Packet)
  | pktRevoke (port : Nat) (p : Packet)
  | pktRevokeDone (port : Nat) (p : Packet)
  | reservedPacket (port : Nat) (p : Packet)
  | linkFlit (port : Nat) (ack : BitVec 12) (credits : List (Nat × Nat)) (replay : Option Nat)
  | flitCrcFail (port : Nat)
  | trainEnable (port : Nat)
  | trainDisable (port : Nat)
  | retrain (port : Nat)
  | peerSeen (port : Nat) (lanes : BitVec 48)
  | trainTimeout (port : Nat) (unlocked : BitVec 48)
  | eqDone (port : Nat) (converged : BitVec 48)
  | trainLock (port : Nat) (peerMask : BitVec 48)
  | configOk (port : Nat) (rttPs : Nat) (peer : BitVec 4) (reversed : Bool)
  | mismatch (port : Nat)
  | laneFail (port : Nat) (lane : Nat)
  | widthOk (port : Nat)
  | noWidth (port : Nat)
  -- the stage pipeline (05, 06, 07, 10)
  | embed (i : StageIn) (chunks : List ChunkTokens)
  | norm (i : StageIn)
  | proj (i : StageIn)
  | rope (i : StageIn)
  | attn (i : StageIn) (ue : List CacheUe)
  | attnWalk (i : StageIn) (entry pair lane : Nat) (bad corr : List KvRead)
  | resid (i : StageIn)
  | actStage (i : StageIn)
  | route (i : StageIn)
  | expert (i : StageIn)
  | combine (i : StageIn)
  | lmhead (i : StageIn)
  | sample (i : StageIn)
  | streamPrefetch (reel stage : Nat)
  | modeSwitchProc (stack : Nat) (chans : BitVec 32) (run : RunIn)
  | modeSwitchShared (stack : Nat) (chans : BitVec 32)
  | collection (stack : Nat)
  | readyPoll (stack : Nat)
  -- bank-unit instructions (08)
  | nop (u : BankId)
  | halt (u : BankId)
  | rep (u : BankId) (a : BitVec 4) (imm : BitVec 5)
  | bnz (u : BankId) (a : BitVec 4) (imm : BitVec 9)
  | collect (u : BankId) (a : BitVec 4) (k : BitVec 3)
  | waitin (u : BankId) (phase : BitVec 1)
  | setw (u : BankId) (codeW : BitVec 3)
  | smov (u : BankId) (d : BitVec 4) (imm : BitVec 9)
  | sadd (u : BankId) (d a b : BitVec 4)
  | saddi (u : BankId) (d a : BitVec 4) (imm : BitVec 9)
  | smul (u : BankId) (d a b : BitVec 4)
  | sparam (u : BankId) (d : BitVec 4) (imm : BitVec 9)
  | rld (u : BankId) (a : BitVec 4) (k : BitVec 3) (staging : Bool)
  | rst (u : BankId) (a : BitVec 4) (k : BitVec 3) (staging : Bool)
  | rwait (u : BankId) (k : BitVec 3)
  | vld (u : BankId) (d : BitVec 5) (a : BitVec 4) (k : BitVec 3) (inc : Bool)
  | vst (u : BankId) (d : BitVec 5) (a : BitVec 4) (k : BitVec 3) (inc : Bool)
  | vldx (u : BankId) (d : BitVec 5) (a : BitVec 4) (k : BitVec 3) (inc : Bool)
  | tb (u : BankId) (d a : BitVec 5) (b : BitVec 4) (lane : BitVec 4) (mode : BitVec 2)
  | lka (u : BankId) (d : BitVec 5) (a b : BitVec 4) (k : BitVec 3) (inc set : Bool)
  | iadd (u : BankId) (d a b : BitVec 5)
  | isha (u : BankId) (d a b : BitVec 5)
  | cvti (u : BankId) (d a : BitVec 5)
  | cvth (u : BankId) (d a : BitVec 5)
  | fadd (u : BankId) (d a b : BitVec 5)
  | fsub (u : BankId) (d a b : BitVec 5)
  | fmul (u : BankId) (d a b : BitVec 5)
  | ffma (u : BankId) (d a b : BitVec 5)
  | fbc (u : BankId) (d a : BitVec 5) (lane : BitVec 3)
  | fred (u : BankId) (d a : BitVec 5)
  | fexp2 (u : BankId) (d a : BitVec 5)
  | frsq (u : BankId) (d a : BitVec 5)
  | frcp (u : BankId) (d a : BitVec 5)
  | fsilu (u : BankId) (d a : BitVec 5)
  | fq16 (u : BankId) (d a b : BitVec 5) (half : BitVec 1)
  -- row operations (09)
  | zero (by_ : ZeroBy)
  | rowCopy (u : BankId) (d a : BitVec 4)
  | rowNot (u : BankId) (d a : BitVec 4)
  | rowAnd (u : BankId) (d a b : BitVec 4)
  | rowOr (u : BankId) (d a b : BitVec 4)
  | rowXor (u : BankId) (d a b : BitVec 4)
  | rowMaj3 (u : BankId) (d a b : BitVec 4)
  -- memory maintenance (09, 11, 13)
  | refresh (u : BankId)
  | targetedRefresh (u : BankId) (row : Nat)
  | patrolRead (u : BankId) (row : Nat) (corrected uncorrectable : Nat)
  | dailyCheck (d : DailyIn)
  | dailyRecheck (stack obj block : Nat) (hostData : Option Bytes)
  | migrationCopy (engine obj : Nat) (copy : CopyIn)
  | doneClaimed (obj : Nat)
  | doneUnclaimed (obj : Nat)
  | granuleRelocate (u : BankId) (gran : Nat)
  | boardPageFillDone (page : Nat)
  | amaxWriteout (reel : Nat)
  | apertureRead (x : Nat) (r : ReadIn)
  | apertureWrite (x : Nat) (data : Bytes)
  -- ageing, power, heat, board memory, flash (13, 18)
  | epochEnd
  | canaryRead (u : BankId) (k : Nat) (errorFree : Bool)
  | monitorReport (r : Reading)
  | coreRailUpdate
  | governorSample (pHub pArray pStack : Nat)
  | telemetryRenew
  | mr4Read (step : BitVec 2)
  | thermTrip
  | vrAlert
  | pwrOkRise
  | pwrOkFall
  | perstRise (bootSel : BitVec 2)
  | perstFall
  | bootComplete (b : BootIn)
  | readLimitRewrite (block : Nat) (r : FlashRead)
  | wearLevel (lun src dst : Nat)
  | flashProgramFail (m : FlashMove)
  -- PCIe, SPDM, TDISP (15, 16)
  | flr (fn : Nat)
  | pfFlr
  | l0pRequest (width : BitVec 5)
  | l0pReduce
  | doeDiscovery (fn : Nat) (index : Byte)
  | getMeasurements (fn : Nat)
  | getReport (fn : Nat) (nonce : BitVec 256)
  | ideKm (fn : Nat) (link : Bool) (program : Bool)
  | lockInterface (fn : Nat)
  | stopInterface (fn : Nat)
  | laneMargin (active : Bool)
  -- I3C (18)
  | entdaa (addr : BitVec 7)
  | setdasa (static dyn : BitVec 7)
  | rstdaa
  | getpid
  | getbcr
  | getdcr
  | getstatus
  | getmxds
  | enec
  | disec
  | privateWrite (data : Bytes)
  | privateRead (len : Nat)
  -- JTAG (16, 20)
  | extest
  | samplePreload
  | bypass
  | idcode
  | debugObserve (off : Nat) (digest : BitVec 384)
  | debugData (part : DebugPart) (n : Nat) (digest : BitVec 384)
  | tapReset
  -- added rows
  | configSpaceReady (fn : Nat)
  | busMasterEnable (fn : Nat) (v : Bool)
  | d3hot (fn : Nat) (v : Bool)
  | startInterface (fn : Nat)
  | tdiError (fn : Nat)
  | reportSigned (fn : Nat)
  | boardMemoryRefresh (chan rank bank : Nat)
  deriving DecidableEq, Repr

end Sys2Proof
end

