-- ==== Sys2Proof/Config.lean ====
section
/-! DEFINITION. What the manual leaves open while the device goes on (free values: constants with no body, so that no proof
can see them), and the sizes that the manual fixes for this stepping. -/
namespace Sys2Proof.Config

/-- The n-th open 64-bit value of a run (log entry 3): the manual states that some value is there, and not which. -/
opaque free64 : Nat → W64

/-- The n-th open FP32 value of a run (log entry 3). -/
opaque freeF32 : Nat → F32

/-- An open 384-bit digest or identity (log entry 3): a hash over key material that the model does not hold. -/
opaque free384 : Nat → BitVec 384

/-- A kind-specific parameter of a NORM or ROPE stage (log entry 5): the manual gives its place, KPARAM_ADDR, and not its layout. It is
fixed by the reel image, which its digest names, the address and the parameter's number. -/
opaque kparam : BitVec 384 → Nat → Nat → F32

/-- A byte that a STRIPED object's view holds outside every matrix, by its unified address (log entry 103): the manual gives it no
storage. -/
opaque viewHole : Nat → Byte

def stackCnt : Nat := 32
def chans : Nat := 32
def banks : Nat := 32
def rowsPerBank : Nat := 98304
def rowBytes : Nat := 1024
def granulesPerBank : Nat := 48
def rowsPerGranule : Nat := 2048
def granuleBytes : Nat := 2097152
def entries : Nat := 8192
def objects : Nat := 65536
def arrays : Nat := 64
def dmaEngines : Nat := 16
def ports : Nat := 4
def functions : Nat := 32
def tenants : Nat := 32
def reelSlots : Nat := 4

end Sys2Proof.Config
end

