-- ==== Sys2Proof/Machine/BankCode.lean ====
section
/-! DEFINITION. The 32-bit instructions of the bank units (R198, R199, R238): reading one from its word and writing one as its word. -/
namespace Sys2Proof.Machine

/-- Three-register vector operations. -/
inductive VecOp where
  | iadd | isha | fadd | fsub | fmul | ffma
  deriving DecidableEq, Repr

/-- Two-register vector operations. -/
inductive LaneOp where
  | cvti | cvth | fred | fexp2 | frsq | frcp | fsilu
  deriving DecidableEq, Repr

/-- Row-engine operations (R238). -/
inductive RowFn where
  | zero | copy | not | and | or | xor | maj3
  deriving DecidableEq, Repr

/-- A bank-unit instruction with the fields that its opcode uses. Scalar registers have four bits: values 16 to 31 are undefined. -/
inductive Code where
  | nop
  | halt
  | rep (a : BitVec 4) (imm : BitVec 5)
  | bnz (a : BitVec 4) (imm : BitVec 9)
  | collect (a : BitVec 4) (k : BitVec 3)
  | waitin (phase : BitVec 1)
  | setw (codeW : BitVec 3)
  | smov (d : BitVec 4) (imm : BitVec 9)
  | sadd (d a b : BitVec 4)
  | saddi (d a : BitVec 4) (imm : BitVec 9)
  | smul (d a b : BitVec 4)
  | sparam (d : BitVec 4) (imm : BitVec 9)
  | rld (a : BitVec 4) (k : BitVec 3) (staging : BitVec 1)
  | rst (a : BitVec 4) (k : BitVec 3) (staging : BitVec 1)
  | rwait (k : BitVec 3)
  | rowop (f : RowFn) (d a b : BitVec 4)
  | vld (d : BitVec 5) (a : BitVec 4) (k : BitVec 3) (inc : BitVec 1)
  | vst (d : BitVec 5) (a : BitVec 4) (k : BitVec 3) (inc : BitVec 1)
  | vldx (d : BitVec 5) (a : BitVec 4) (k : BitVec 3) (inc : BitVec 1)
  | tb (d a : BitVec 5) (b : BitVec 4) (lane : BitVec 4) (mode : BitVec 2)
  | lka (d : BitVec 5) (a b : BitVec 4) (k : BitVec 3) (inc set : BitVec 1)
  | vec (o : VecOp) (d a b : BitVec 5)
  | lane (o : LaneOp) (d a : BitVec 5)
  | fbc (d a : BitVec 5) (lane : BitVec 3)
  | fq16 (d a b : BitVec 5) (half : BitVec 1)
  deriving DecidableEq, Repr

/-- The encoding admits the fields: TB mode 3 and an odd accumulator pair are undefined (R200), SETW takes the six codes of R123. -/
def Code.wf : Code → Bool
  | .tb _ _ _ _ mode => mode != 3
  | .setw cw => cw.ult 6
  | .lka d _ _ _ _ _ => !d.getLsbD 0
  | .sparam _ imm => imm.ult 4
  | _ => true

def VecOp.code : VecOp → BitVec 8
  | .iadd => 0x22 | .isha => 0x23 | .fadd => 0x2A | .fsub => 0x2B | .fmul => 0x2C | .ffma => 0x2D

def LaneOp.code : LaneOp → BitVec 8
  | .cvti => 0x28 | .cvth => 0x29 | .fred => 0x2F | .fexp2 => 0x30 | .frsq => 0x31 | .frcp => 0x32 | .fsilu => 0x33

def RowFn.code : RowFn → BitVec 3
  | .zero => 0 | .copy => 1 | .not => 2 | .and => 3 | .or => 4 | .xor => 5 | .maj3 => 6

def RowFn.ofCode (c : BitVec 3) : Option RowFn :=
  if c = 0 then some .zero else if c = 1 then some .copy else if c = 2 then some .not else if c = 3 then some .and
  else if c = 4 then some .or else if c = 5 then some .xor else if c = 6 then some .maj3 else none

/-- IMM, B, A, D, OP from the most significant bit down. -/
def codeWord (op : BitVec 8) (d a b : BitVec 5) (imm : BitVec 9) : W32 := imm ++ b ++ a ++ d ++ op

/-- A scalar register in its field. -/
def sreg (r : BitVec 4) : BitVec 5 := (0 : BitVec 1) ++ r

/-- The word of an instruction (R198). Fields that the opcode does not use are 0. -/
def encodeCode : Code → W32
  | .nop => codeWord 0x00 0 0 0 0
  | .halt => codeWord 0x01 0 0 0 0
  | .rep a imm => codeWord 0x02 0 (sreg a) 0 ((0 : BitVec 4) ++ imm)
  | .bnz a imm => codeWord 0x03 0 (sreg a) 0 imm
  | .collect a k => codeWord 0x04 0 (sreg a) 0 ((0 : BitVec 6) ++ k)
  | .waitin p => codeWord 0x05 0 0 0 ((0 : BitVec 8) ++ p)
  | .setw cw => codeWord 0x06 0 0 0 ((0 : BitVec 6) ++ cw)
  | .smov d imm => codeWord 0x08 (sreg d) 0 0 imm
  | .sadd d a b => codeWord 0x09 (sreg d) (sreg a) (sreg b) 0
  | .saddi d a imm => codeWord 0x0A (sreg d) (sreg a) 0 imm
  | .smul d a b => codeWord 0x0B (sreg d) (sreg a) (sreg b) 0
  | .sparam d imm => codeWord 0x0C (sreg d) 0 0 imm
  | .rld a k st => codeWord 0x10 0 (sreg a) 0 ((0 : BitVec 5) ++ st ++ k)
  | .rst a k st => codeWord 0x11 0 (sreg a) 0 ((0 : BitVec 5) ++ st ++ k)
  | .rwait k => codeWord 0x12 0 0 0 ((0 : BitVec 6) ++ k)
  | .rowop f d a b => codeWord 0x13 (sreg d) (sreg a) (sreg b) ((0 : BitVec 6) ++ f.code)
  | .vld d a k inc => codeWord 0x18 d (sreg a) 0 ((0 : BitVec 5) ++ inc ++ k)
  | .vst d a k inc => codeWord 0x19 d (sreg a) 0 ((0 : BitVec 5) ++ inc ++ k)
  | .vldx d a k inc => codeWord 0x1A d (sreg a) 0 ((0 : BitVec 5) ++ inc ++ k)
  | .tb d a b lane mode => codeWord 0x20 d a (sreg b) ((0 : BitVec 3) ++ mode ++ lane)
  | .lka d a b k inc set => codeWord 0x21 d (sreg a) (sreg b) ((0 : BitVec 4) ++ set ++ inc ++ k)
  | .vec o d a b => codeWord o.code d a b 0
  | .lane o d a => codeWord o.code d a 0 0
  | .fbc d a lane => codeWord 0x2E d a 0 ((0 : BitVec 6) ++ lane)
  | .fq16 d a b half => codeWord 0x34 d a b ((0 : BitVec 8) ++ half)

/-- A field that names a scalar register. -/
def scalarOf (r : BitVec 5) : Option (BitVec 4) := if r.getLsbD 4 then none else some (r.setWidth 4)

/-- The instruction with these fields; none where it is undefined (R198, R199, R200, R238). -/
def codeOf (op : BitVec 8) (d a b : BitVec 5) (imm : BitVec 9) : Option Code :=
  let k : BitVec 3 := imm.extractLsb' 0 3
  let b3 : BitVec 1 := imm.extractLsb' 3 1
  let sd := scalarOf d
  let sa := scalarOf a
  let sb := scalarOf b
  if op = 0x00 then some .nop
  else if op = 0x01 then some .halt
  else if op = 0x02 then sa.map fun a => .rep a (imm.extractLsb' 0 5)
  else if op = 0x03 then sa.map fun a => .bnz a imm
  else if op = 0x04 then sa.map fun a => .collect a k
  else if op = 0x05 then some (.waitin (imm.extractLsb' 0 1))
  else if op = 0x06 then if k.ult 6 then some (.setw k) else none
  else if op = 0x08 then sd.map fun d => .smov d imm
  else if op = 0x09 then sd.bind fun d => sa.bind fun a => sb.map fun b => .sadd d a b
  else if op = 0x0A then sd.bind fun d => sa.map fun a => .saddi d a imm
  else if op = 0x0B then sd.bind fun d => sa.bind fun a => sb.map fun b => .smul d a b
  else if op = 0x0C then if imm.ult 4 then sd.map fun d => .sparam d imm else none
  else if op = 0x10 then sa.map fun a => .rld a k b3
  else if op = 0x11 then sa.map fun a => .rst a k b3
  else if op = 0x12 then some (.rwait k)
  else if op = 0x13 then
    (RowFn.ofCode k).bind fun f => sd.bind fun d => sa.bind fun a => sb.map fun b => .rowop f d a b
  else if op = 0x18 then sa.map fun a => .vld d a k b3
  else if op = 0x19 then sa.map fun a => .vst d a k b3
  else if op = 0x1A then sa.map fun a => .vldx d a k b3
  else if op = 0x20 then
    if imm.extractLsb' 4 2 = 3 then none else sb.map fun b => .tb d a b (imm.extractLsb' 0 4) (imm.extractLsb' 4 2)
  else if op = 0x21 then
    if d.getLsbD 0 then none
    else sa.bind fun a => sb.map fun b => .lka d a b k b3 (imm.extractLsb' 4 1)
  else if op = 0x22 then some (.vec .iadd d a b)
  else if op = 0x23 then some (.vec .isha d a b)
  else if op = 0x28 then some (.lane .cvti d a)
  else if op = 0x29 then some (.lane .cvth d a)
  else if op = 0x2A then some (.vec .fadd d a b)
  else if op = 0x2B then some (.vec .fsub d a b)
  else if op = 0x2C then some (.vec .fmul d a b)
  else if op = 0x2D then some (.vec .ffma d a b)
  else if op = 0x2E then some (.fbc d a k)
  else if op = 0x2F then some (.lane .fred d a)
  else if op = 0x30 then some (.lane .fexp2 d a)
  else if op = 0x31 then some (.lane .frsq d a)
  else if op = 0x32 then some (.lane .frcp d a)
  else if op = 0x33 then some (.lane .fsilu d a)
  else if op = 0x34 then some (.fq16 d a b (imm.extractLsb' 0 1))
  else none

/-- The instruction that a word spells; none where it is undefined. Bits that the opcode does not use are ignored. -/
def decodeCode (w : W32) : Option Code :=
  codeOf (w.extractLsb' 0 8) (w.extractLsb' 8 5) (w.extractLsb' 13 5) (w.extractLsb' 18 5) (w.extractLsb' 23 9)

end Sys2Proof.Machine
end

