-- ==== Sys2Proof/Machine/Bits.lean ====
section
/-! DEFINITION. Bit fields, byte order and the two sparse containers of the state: a map from numbers and a byte memory, each
kept in one canonical form (keys strictly rising, no entry at its default). -/
namespace Sys2Proof.Machine

/-- Bits [lsb+width-1:lsb] of a number. -/
def bits (v lsb width : Nat) : Nat := v / 2 ^ lsb % 2 ^ width

/-- `v` with its bits [lsb+width-1:lsb] replaced by `x`. -/
def setBits (v lsb width x : Nat) : Nat :=
  v - bits v lsb width * 2 ^ lsb + x % 2 ^ width * 2 ^ lsb

def bit (v i : Nat) : Bool := v / 2 ^ i % 2 == 1

def setBit (v i : Nat) (b : Bool) : Nat := setBits v i 1 b.toNat

/-- Signed value of the low `w` bits of `v`. -/
def signed (w v : Nat) : Int :=
  if v % 2 ^ w < 2 ^ (w - 1) then (v % 2 ^ w : Nat) else (v % 2 ^ w : Nat) - (2 ^ w : Nat)

/-- Two's-complement pattern of `v` in `w` bits. -/
def twos (w : Nat) (v : Int) : Nat := (v % (2 ^ w : Nat)).toNat

def ceilDiv (a b : Nat) : Nat := (a + b - 1) / b

/-- Saturating addition at `w` bits. -/
def satAdd (w a b : Nat) : Nat := min (a + b) (2 ^ w - 1)

/-- The `n` low bytes of `v`, least significant first (R3). -/
def leBytes : Nat → Nat → Bytes
  | 0, _ => []
  | n + 1, v => BitVec.ofNat 8 v :: leBytes n (v / 256)

/-- The number that bytes hold, least significant first (R3). -/
def leNat : Bytes → Nat
  | [] => 0
  | b :: bs => b.toNat + 256 * leNat bs

/-- `n` numbers from `a` on. -/
def upto (a n : Nat) : List Nat := (List.range n).map (a + ·)

/-- Indices of the set bits of `v` below `w`. -/
def setBitsOf (w v : Nat) : List Nat := (List.range w).filter (bit v)

def popcount (w v : Nat) : Nat := (setBitsOf w v).length

/-- `f` applied to the state for each item in order. -/
def forEach {α σ : Type} (xs : List α) (s : σ) (f : σ → α → σ) : σ := xs.foldl f s

/-- Least number below `n` that satisfies `p`. -/
def firstBelow (n : Nat) (p : Nat → Bool) : Option Nat := (List.range n).find? p

/-! ### Sparse maps -/

/-- A map from numbers, as pairs with strictly rising keys. A key that is not listed holds the default of its use. -/
abbrev Map (α : Type) := List (Nat × α)

def mapGet {α : Type} (m : Map α) (k : Nat) : Option α := (m.find? (·.1 == k)).map (·.2)

def mapGetD {α : Type} (m : Map α) (k : Nat) (d : α) : α := (mapGet m k).getD d

def mapDel {α : Type} (m : Map α) (k : Nat) : Map α := m.filter (·.1 != k)

/-- `m` with `v` at `k`; every other key keeps its value. -/
def mapPut {α : Type} (m : Map α) (k : Nat) (v : α) : Map α :=
  m.filter (·.1 < k) ++ (k, v) :: m.filter (k < ·.1)

/-- `m` with `v` at `k`, not listed when `v` is the default. -/
def mapSet {α : Type} [DecidableEq α] (d : α) (m : Map α) (k : Nat) (v : α) : Map α :=
  if v = d then mapDel m k else mapPut m k v

/-- Keys strictly rising. -/
def mapSorted {α : Type} : Map α → Bool
  | [] => true
  | [_] => true
  | a :: b :: r => a.1 < b.1 && mapSorted (b :: r)

/-! ### Byte memory -/

/-- A byte memory: cells at strictly rising addresses, none holding what an unlisted address reads as. -/
abbrev Memory := List (Nat × Byte)

/-- What an address that no cell lists reads as (R283, R341, R492). -/
def memUnlisted : Byte := 0

def memRead (m : Memory) (a : Nat) : Byte := ((m.find? (·.1 == a)).map (·.2)).getD memUnlisted

def memReadN (m : Memory) (a n : Nat) : Bytes := (upto a n).map (memRead m)

/-- Cells of `bs` from address `a` on, without those that hold the unlisted value. -/
def memCells (a : Nat) : Bytes → Memory
  | [] => []
  | b :: bs => if b = memUnlisted then memCells (a + 1) bs else (a, b) :: memCells (a + 1) bs

/-- Writes `bs` from address `a` on. -/
def memWrite (m : Memory) (a : Nat) (bs : Bytes) : Memory :=
  m.filter (·.1 < a) ++ memCells a bs ++ m.filter (fun c => a + bs.length ≤ c.1)

/-- Zeroes `n` bytes from address `a` on. -/
def memZero (m : Memory) (a n : Nat) : Memory := m.filter (fun c => c.1 < a || a + n ≤ c.1)

/-- The canonical form of a memory. -/
abbrev Memory.wf (m : Memory) : Prop := mapSorted m = true ∧ m.all (fun c => c.2 != memUnlisted) = true

def sumNats (xs : List Nat) : Nat := xs.foldl (· + ·) 0

/-- Splits the first `n` rows off a list of runs. -/
def splitRows : Nat → List (Nat × Nat × Nat) → List (Nat × Nat × Nat) × List (Nat × Nat × Nat)
  | _, [] => ([], [])
  | n, (k, a, c) :: rs =>
    if n = 0 then ([], (k, a, c) :: rs)
    else if c ≤ n then
      let (x, y) := splitRows (n - c) rs
      ((k, a, c) :: x, y)
    else ([(k, a, n)], (k, a + n, c - n) :: rs)

def rowCount (runs : List (Nat × Nat × Nat)) : Nat := runs.foldl (fun n r => n + r.2.2) 0

end Sys2Proof.Machine
end

