-- ==== Sys2Proof/Machine/RegTab.lean ====
section
/-! DEFINITION. The register space (R430, R431, R432, R440): one named field for every field of the chapters' register
tables, with its page, offset, bits, access, reset value and the tag under which a write to it is checked and acts. A field whose
Reset is cfg carries the value of the default image; where the manual states none, the value of the assumption log. -/
namespace Sys2Proof.Machine

/-- Where a register field lies: BAR0 offset of its register (instance 0 of the block, element 0 of an array), least
significant bit, width, and the value it holds at reset. -/
structure Fld where
  addr : Nat
  lsb : Nat
  width : Nat
  rst : Nat
  deriving DecidableEq, Repr

/-- Access codes of R5. -/
inductive Acc where
  | ro | rw | rwt | w1c | wo | rc
  deriving DecidableEq, Repr

/-- How a write to a field is checked and what it does beside changing the field: an open value, a range outside which
R45 drops with LIMIT, alignment and encodings whose breach is BAD_FIELD, or a field with a rule of its own. -/
inductive Tag where
  | plain
  | rng (lo hi : Nat)
  | align (n : Nat)
  | enum (max : Nat)
  | blkErr
  | enable
  | softReset
  | haltAtTick
  | discard
  | tod
  | run
  | denyRun
  | period
  | grow
  | curve0
  | curve1
  | vector
  | orBase
  | orEn
  | orSize
  | orHead
  | stream
  | streamSlots
  | streamEn
  | xqBase
  | xqEn
  | xqSize
  | xqEngine
  | xqResume
  | xqTail
  | owner
  | chMask
  | sqBase
  | sqEn
  | sqSize
  | sqTail
  | evrBase
  | evrEn
  | evrSize
  | evrHead
  | csvFirst
  | msixMask
  | mbxOp
  | mbxSeq
  | alertSrc
  | erlBase
  | erlEn
  | erlSize
  | erlHead
  | resetKey
  | rcvGo
  | stageGo
  | lnkEn
  | retrain
  | refTemp
  | refWin
  | stageRows
  | rgnBound
  deriving DecidableEq, Repr

/-- Who sees a field beside the physical function (R383, R439): nobody, each function its own copy, or every function the
physical function's value, read only. -/
inductive Seen where
  | phys | own | shared
  deriving DecidableEq, Repr

/-- Source of a cfg field (R448): not cfg, named by REG records, named in instance 0 only, or derived. -/
inductive CfgKind where
  | none | named | named0 | derived
  deriving DecidableEq, Repr

/-- One row of a register table: the field, the number of registers of its array and their stride, the number of
fields in one register and their stride in bits. -/
structure Spec where
  fld : Fld
  cnt : Nat
  stride : Nat
  lcnt : Nat
  lstride : Nat
  acc : Acc
  cfg : CfgKind
  seen : Seen
  tag : Tag
  deriving DecidableEq, Repr

-- HUB (R441)
def HUB_INFO_STEPPING : Fld := ⟨0x100, 0, 8, 0xB0⟩
def HUB_INFO_ARRAYS : Fld := ⟨0x100, 8, 8, 64⟩
def HUB_INFO_STACKS : Fld := ⟨0x100, 16, 8, 32⟩
def HUB_INFO_DMA : Fld := ⟨0x100, 24, 8, 16⟩
def HUB_TOD : Fld := ⟨0x108, 0, 64, 0⟩
def HUB_UPTIME : Fld := ⟨0x110, 0, 48, 0⟩
-- FRM (02)
def FRM_CTL_RUN : Fld := ⟨0x1100, 0, 1, 0⟩
def FRM_CTL_GATE : Fld := ⟨0x1100, 1, 1, 0⟩
def FRM_CTL_FSYNC_OUT_EN : Fld := ⟨0x1100, 2, 1, 0⟩
def FRM_CTL_FRAME_INT_EN : Fld := ⟨0x1100, 3, 1, 0⟩
def FRM_CTL_SLIP_INT_EN : Fld := ⟨0x1100, 4, 1, 0⟩
def FRM_CFG_SRC : Fld := ⟨0x1108, 0, 2, 0⟩
def FRM_CFG_ROLE : Fld := ⟨0x1108, 2, 1, 0⟩
def FRM_PERIOD : Fld := ⟨0x1110, 0, 17, 20000⟩
def FRM_RESERVE : Fld := ⟨0x1118, 0, 8, 60⟩
def FRM_SLIP_LIMIT : Fld := ⟨0x1120, 0, 8, 16⟩
def FRM_TICK : Fld := ⟨0x1128, 0, 48, 0⟩
def FRM_FRAME : Fld := ⟨0x1130, 0, 48, 0⟩
def OPEN_TICK : Fld := ⟨0x1138, 0, 48, 0⟩
def FRM_STS_PHASE : Fld := ⟨0x1140, 0, 2, 0⟩
def FRM_STS_LOCKED : Fld := ⟨0x1140, 2, 1, 0⟩
def FRM_STS_SLIPPING : Fld := ⟨0x1140, 3, 1, 0⟩
def FRM_NOW : Fld := ⟨0x1148, 0, 27, 0⟩
def FRM_LAST_SLIP_FRAME : Fld := ⟨0x1150, 0, 48, 0⟩
def FRM_LAST_SLIP_SKIPPED : Fld := ⟨0x1150, 48, 8, 0⟩
def FRM_LAST_SLIP_CAUSE : Fld := ⟨0x1150, 56, 3, 0⟩
def FRM_LAST_CAUSES : Fld := ⟨0x1158, 1, 6, 0⟩
def FRM_LAST_OVERRUN : Fld := ⟨0x1160, 0, 32, 0⟩
def FRM_SLIP_CNT : Fld := ⟨0x1168, 0, 32, 0⟩
def FRM_SKIP_CNT : Fld := ⟨0x1198, 0, 48, 0⟩
def FRM_FSYNC_MISSED : Fld := ⟨0x11A0, 0, 16, 0⟩
def FRM_FSYNC_EARLY : Fld := ⟨0x11A0, 16, 16, 0⟩
def FRM_BEACON_COMP_PS : Fld := ⟨0x11A8, 0, 20, 0⟩
def FRM_BEACON_HOPS : Fld := ⟨0x11A8, 20, 4, 0⟩
def FRM_BEACON_PORT : Fld := ⟨0x11A8, 24, 4, 0⟩
-- CSH (03, 07)
def CSH_OCC0_FREE : Fld := ⟨0x2100, 0, 14, 8192⟩
def CSH_OCC0_STAGED : Fld := ⟨0x2100, 16, 14, 0⟩
def CSH_OCC0_FEEDING : Fld := ⟨0x2100, 32, 14, 0⟩
def CSH_OCC0_DECODING : Fld := ⟨0x2100, 48, 14, 0⟩
def CSH_OCC1_FINISHED : Fld := ⟨0x2108, 0, 14, 0⟩
def CSH_OCC1_FAULTED : Fld := ⟨0x2108, 16, 14, 0⟩
def CSH_OCC1_STRIKING : Fld := ⟨0x2108, 32, 14, 0⟩
def CSH_RANGE_BASE : Fld := ⟨0x2110, 0, 13, 0⟩
def CSH_RANGE_COUNT : Fld := ⟨0x2110, 16, 14, 0⟩
def CSH_LATE_CNT : Fld := ⟨0x2210, 0, 32, 0⟩
def CSH_FAULT_CNT : Fld := ⟨0x2218, 0, 32, 0⟩
def CSH_DRAFT_ACC : Fld := ⟨0x2220, 0, 48, 0⟩
def CSH_DRAFT_REJ : Fld := ⟨0x2228, 0, 48, 0⟩
def CSH_GROW : Fld := ⟨0x2230, 0, 64, 0x8888888888888864⟩
def CSH_EDIT_SWAPPED : Fld := ⟨0x2238, 0, 32, 0⟩
def CSH_EDIT_REPLACED : Fld := ⟨0x2238, 32, 32, 0⟩
-- SHL (04)
def SHL_POLICY_URGENT_BOOST : Fld := ⟨0x3100, 0, 3, 1⟩
def SHL_POLICY_AGE_FRAMES : Fld := ⟨0x3100, 8, 8, 8⟩
def SHL_POLICY_PATH_FORCE : Fld := ⟨0x3100, 16, 2, 0⟩
def SHL_ADM_LEVEL : Fld := ⟨0x3108, 0, 4, 0⟩
def SHL_ADM_RECOVER : Fld := ⟨0x3108, 8, 8, 32⟩
def SHL_ADM_CURVE0 : Fld := ⟨0x3110, 0, 64, 0x8F9FAFBFCFDFEFFF⟩
def SHL_ADM_CURVE1 : Fld := ⟨0x3118, 0, 64, 0x0F1F2F3F4F5F6F7F⟩
def SHL_PATH_CURVE : Fld := ⟨0x3120, 0, 48, 0x040606080A0C⟩
def SHL_CHUNK_SHARE : Fld := ⟨0x3128, 0, 10, 400⟩
def SHL_CHUNK_MAX : Fld := ⟨0x3128, 16, 12, 2048⟩
def SHL_STREAM_AHEAD : Fld := ⟨0x3130, 0, 4, 2⟩
def SHL_STRIKE_MIN_ROWS : Fld := ⟨0x3138, 0, 32, 65536⟩
def SHL_REPORT_BASE : Fld := ⟨0x3140, 0, 64, 0⟩
def SHL_REPORT_CTL_SLOTS : Fld := ⟨0x3148, 0, 8, 0⟩
def SHL_REPORT_CTL_HEAD : Fld := ⟨0x3148, 8, 8, 0⟩
def SHL_LAST_PRED_PRED_NS : Fld := ⟨0x3150, 0, 32, 0⟩
def SHL_LAST_PRED_ROLL_NS : Fld := ⟨0x3150, 32, 32, 0⟩
def SHL_LAST_BUDGET_PLAN_NS : Fld := ⟨0x3158, 0, 32, 0⟩
def SHL_LAST_BUDGET_ADM_NS : Fld := ⟨0x3158, 32, 32, 0⟩
def SHL_DEFER_CNT : Fld := ⟨0x3160, 0, 32, 0⟩
-- SMP (10)
def SMP_INT_VECTOR : Fld := ⟨0x4100, 0, 11, 0⟩
def SMP_INT_EN : Fld := ⟨0x4100, 16, 1, 0⟩
def SMP_INT_MODE : Fld := ⟨0x4100, 17, 1, 0⟩
def SMP_TOK_CNT : Fld := ⟨0x4108, 0, 48, 0⟩
def SMP_EMPTY_CNT : Fld := ⟨0x4110, 0, 32, 0⟩
def SMP_WAIT_NS : Fld := ⟨0x4118, 0, 48, 0⟩
def SMP_OR_BASE : Fld := ⟨0x4200, 0, 64, 0⟩
def SMP_OR_EN : Fld := ⟨0x4208, 0, 1, 0⟩
def SMP_OR_SIZE : Fld := ⟨0x4208, 1, 5, 0⟩
def SMP_OR_HEAD : Fld := ⟨0x4210, 0, 32, 0⟩
def SMP_OR_TAIL : Fld := ⟨0x4218, 0, 32, 0⟩
-- UMR (11)
def UMR_WIN_BASE : Fld := ⟨0x5100, 0, 22, 0⟩
def UMR_WIN_SIZE : Fld := ⟨0x5100, 32, 23, 0⟩
def UMR_APT_BASE : Fld := ⟨0x5200, 21, 22, 0⟩
def UMR_STREAM_OBJ : Fld := ⟨0x5208, 0, 16, 0⟩
def UMR_STREAM_SLOTS : Fld := ⟨0x5208, 16, 4, 0⟩
def UMR_STREAM_EN : Fld := ⟨0x5208, 20, 1, 0⟩
def UMR_CAP_STACK_FREE : Fld := ⟨0x5228, 0, 32, 0⟩
def UMR_CAP_BOARD_FREE : Fld := ⟨0x5228, 32, 32, 0⟩
def UMR_OBJ_CNT : Fld := ⟨0x5230, 0, 17, 0⟩
def UMR_APT_DROP : Fld := ⟨0x5238, 0, 32, 0⟩
def UMR_DENY_CNT : Fld := ⟨0x5240, 0, 32, 0⟩
def UMR_OBJ_SEL : Fld := ⟨0x5300, 0, 16, 0⟩
def UMR_OBJ_DATA : Fld := ⟨0x5308, 0, 64, 0⟩
def UMR_XT_SEL : Fld := ⟨0x5348, 0, 22, 0⟩
def UMR_XT_DATA : Fld := ⟨0x5350, 0, 64, 0⟩
-- MIG (11)
def MIG_CTL_EN : Fld := ⟨0x6100, 0, 1, 0⟩
def MIG_STS_OBJ0 : Fld := ⟨0x6108, 0, 16, 0⟩
def MIG_STS_OBJ1 : Fld := ⟨0x6108, 16, 16, 0⟩
def MIG_STS_BUSY0 : Fld := ⟨0x6108, 32, 1, 0⟩
def MIG_STS_BUSY1 : Fld := ⟨0x6108, 33, 1, 0⟩
def MIG_PROMO_CNT : Fld := ⟨0x6110, 0, 48, 0⟩
def MIG_DEMO_CNT : Fld := ⟨0x6118, 0, 48, 0⟩
def MIG_STALL_CNT : Fld := ⟨0x6120, 0, 32, 0⟩
def MIG_RELOC_CNT : Fld := ⟨0x6128, 0, 32, 0⟩
def MIG_SM_VER : Fld := ⟨0x6130, 0, 16, 0⟩
def MIG_NOROOM_CNT : Fld := ⟨0x6138, 0, 32, 0⟩
-- XPD (12)
def XPD_Q_BASE : Fld := ⟨0x7100, 0, 64, 0⟩
def XPD_Q_EN : Fld := ⟨0x7108, 0, 1, 0⟩
def XPD_Q_SIZE : Fld := ⟨0x7108, 1, 5, 0⟩
def XPD_Q_ENGINE : Fld := ⟨0x7108, 6, 4, 0⟩
def XPD_Q_RESUME : Fld := ⟨0x7108, 10, 1, 0⟩
def XPD_Q_TAIL : Fld := ⟨0x7110, 0, 32, 0⟩
def XPD_Q_HEAD : Fld := ⟨0x7118, 0, 32, 0⟩
def XPD_Q_HALTED : Fld := ⟨0x7118, 32, 1, 0⟩
def XPD_SLOT_OWN : Fld := ⟨0x7200, 0, 6, 63⟩
def XPD_SLOT_GEN : Fld := ⟨0x7240, 0, 8, 0⟩
def XPD_SLOT_LOADED : Fld := ⟨0x7240, 8, 1, 0⟩
-- BDM, FLC (13)
def BDM_CFG_RATE : Fld := ⟨0x8100, 0, 2, 2⟩
def BDM_CFG_RANKS_M1 : Fld := ⟨0x8100, 2, 1, 1⟩
def BDM_CFG_RANK_SIZE : Fld := ⟨0x8100, 3, 2, 2⟩
def BDM_STS_TRAINED : Fld := ⟨0x8108, 0, 1, 0⟩
def BDM_STS_MR4_MAX : Fld := ⟨0x8108, 1, 2, 0⟩
def BDM_CAP_GRANULES : Fld := ⟨0x8110, 0, 21, 0⟩
def BDM_CAP_RETIRED : Fld := ⟨0x8110, 32, 21, 0⟩
def BDM_ZS_CNT : Fld := ⟨0x8118, 0, 26, 0⟩
def BDM_LECC_CORR : Fld := ⟨0x8120, 0, 32, 0⟩
def BDM_LECC_UNCORR : Fld := ⟨0x8120, 32, 32, 0⟩
def BDM_RD_B : Fld := ⟨0x8128, 0, 48, 0⟩
def BDM_WR_B : Fld := ⟨0x8130, 0, 48, 0⟩
def BDM_FILL_CNT : Fld := ⟨0x8138, 0, 32, 0⟩
def FLC_CFG_RATE : Fld := ⟨0x9100, 0, 2, 0⟩
def FLC_CFG_CH_MASK : Fld := ⟨0x9100, 8, 8, 3⟩
def FLC_CAP_GIB : Fld := ⟨0x9108, 0, 16, 0⟩
def FLC_BAD : Fld := ⟨0x9108, 32, 16, 0⟩
def FLC_WEAR_MAX_PE : Fld := ⟨0x9110, 0, 16, 0⟩
def FLC_WEAR_MIN_PE : Fld := ⟨0x9110, 16, 16, 0⟩
def FLC_POLICY_READ_LIMIT : Fld := ⟨0x9118, 0, 16, 50⟩
def FLC_POLICY_WEAR_GAP : Fld := ⟨0x9118, 16, 16, 200⟩
def FLC_RELOC_CNT : Fld := ⟨0x9120, 0, 32, 0⟩
def FLC_ECC_RETRY : Fld := ⟨0x9128, 0, 32, 0⟩
def FLC_ECC_UNCORR : Fld := ⟨0x9128, 32, 32, 0⟩
def FLC_STS_READY : Fld := ⟨0x9130, 0, 1, 0⟩
def FLC_STS_BOOT_COPY : Fld := ⟨0x9130, 8, 2, 0⟩
-- PCI (15)
def PCI_SQ_BASE : Fld := ⟨0xA100, 0, 64, 0⟩
def PCI_SQ_EN : Fld := ⟨0xA108, 0, 1, 0⟩
def PCI_SQ_SIZE : Fld := ⟨0xA108, 1, 4, 0⟩
def PCI_SQ_TAIL : Fld := ⟨0xA110, 0, 32, 0⟩
def PCI_SQ_HEAD : Fld := ⟨0xA118, 0, 32, 0⟩
def PCI_EVR_BASE : Fld := ⟨0xA180, 0, 64, 0⟩
def PCI_EVR_EN : Fld := ⟨0xA188, 0, 1, 0⟩
def PCI_EVR_SIZE : Fld := ⟨0xA188, 1, 5, 0⟩
def PCI_EVR_HEAD : Fld := ⟨0xA190, 0, 32, 0⟩
def PCI_EVR_TAIL : Fld := ⟨0xA198, 0, 32, 0⟩
def PCI_EVR_LOST : Fld := ⟨0xA1A0, 0, 32, 0⟩
def PCI_EVT_VECTOR : Fld := ⟨0xA1A8, 0, 6, 0⟩
def PCI_EVT_EN : Fld := ⟨0xA1A8, 8, 1, 0⟩
def PCI_EVT_HOLDOFF_US : Fld := ⟨0xA1A8, 20, 12, 0⟩
def PCI_CSV_FIRST : Fld := ⟨0xA1B0, 0, 13, 0⟩
def PCI_FN_STS_FUNC : Fld := ⟨0xA1B8, 0, 5, 0⟩
def PCI_FN_STS_TENANT : Fld := ⟨0xA1B8, 5, 5, 0⟩
def PCI_FN_STS_BOUND : Fld := ⟨0xA1B8, 10, 1, 0⟩
def PCI_FN_STS_STRIKING : Fld := ⟨0xA1B8, 11, 1, 0⟩
def PCI_FN_STS_CONF : Fld := ⟨0xA1B8, 12, 1, 0⟩
def PCI_FN_STS_TDISP : Fld := ⟨0xA1B8, 13, 2, 0⟩
def PCI_DROP : Fld := ⟨0xA1C0, 0, 32, 0⟩
def PCI_CMD_CNT : Fld := ⟨0xA1C8, 0, 48, 0⟩
def PCI_FETCH_ERR : Fld := ⟨0xA1D0, 0, 32, 0⟩
def PCI_LINK_WIDTH : Fld := ⟨0xA200, 0, 5, 0⟩
def PCI_LINK_L0P_WIDTH : Fld := ⟨0xA200, 5, 5, 0⟩
def PCI_LINK_SPEED : Fld := ⟨0xA200, 10, 4, 0⟩
def PCI_LINK_IDE_LINK : Fld := ⟨0xA200, 14, 1, 0⟩
def PCI_LINK_SEL_STREAMS : Fld := ⟨0xA200, 15, 6, 0⟩
def PCI_FN_TENANT : Fld := ⟨0xA300, 0, 5, 0⟩
def PCI_FN_BOUND : Fld := ⟨0xA300, 5, 1, 0⟩
def PCI_FN_STRIKING : Fld := ⟨0xA300, 6, 1, 0⟩
def PCI_FN_TDISP : Fld := ⟨0xA300, 7, 2, 0⟩
def MSIX_ADDR : Fld := ⟨0xA800, 0, 64, 0⟩
def MSIX_DATA : Fld := ⟨0xA808, 0, 32, 0⟩
def MSIX_MASK : Fld := ⟨0xA808, 32, 1, 0⟩
def MSIX_PBA : Fld := ⟨0xAC00, 0, 64, 0⟩
-- MTP, KEY (16)
def MTP_MBX_OP : Fld := ⟨0xB100, 0, 8, 0⟩
def MTP_MBX_CMD_SEQ : Fld := ⟨0xB100, 8, 8, 0⟩
def MTP_MBX_ARG : Fld := ⟨0xB108, 0, 64, 0⟩
def MTP_MBX_BUSY : Fld := ⟨0xB138, 0, 1, 0⟩
def MTP_MBX_SEQ : Fld := ⟨0xB138, 8, 8, 0⟩
def MTP_MBX_STATUS : Fld := ⟨0xB138, 16, 8, 0⟩
def MTP_MODE_MODE : Fld := ⟨0xB140, 0, 3, 0⟩
def MTP_MODE_DEBUG_OBSERVE : Fld := ⟨0xB140, 3, 1, 0⟩
def MTP_MODE_DEBUG_DATA : Fld := ⟨0xB140, 4, 1, 0⟩
def MTP_FW_SVN : Fld := ⟨0xB148, 0, 32, 0⟩
def MTP_LOG_COUNT : Fld := ⟨0xB150, 0, 11, 0⟩
def MTP_LOG_OVERFLOW : Fld := ⟨0xB150, 16, 1, 0⟩
def MTP_ID : Fld := ⟨0xB158, 0, 64, 0⟩
def MTP_ID_OK : Fld := ⟨0xB178, 0, 1, 0⟩
def KEY_SLOT_STATE : Fld := ⟨0xC100, 0, 2, 0⟩
def KEY_SLOT_FUNC : Fld := ⟨0xC100, 2, 5, 0⟩
def KEY_SLOT_EPOCH : Fld := ⟨0xC100, 32, 32, 0⟩
def KEY_TORUS_HELD : Fld := ⟨0xC200, 0, 1, 0⟩
def KEY_TORUS_ID0 : Fld := ⟨0xC208, 0, 64, 0⟩
def KEY_TORUS_ID1 : Fld := ⟨0xC210, 0, 64, 0⟩
def KEY_DRAIN_DMA : Fld := ⟨0xC218, 0, 16, 0⟩
def KEY_DRAIN_PORT : Fld := ⟨0xC218, 16, 4, 0⟩
def KEY_DRAIN_PEER : Fld := ⟨0xC218, 20, 16, 0⟩
def KEY_DRAIN_TENANT : Fld := ⟨0xC218, 36, 5, 0⟩
def KEY_RVK_CNT : Fld := ⟨0xC220, 0, 32, 0⟩
def KEY_RVK_LATE : Fld := ⟨0xC220, 32, 32, 0⟩
def KEY_PEER_RVK : Fld := ⟨0xC228, 0, 32, 0⟩
-- AGE, PWR, TMP (18)
def AGE_CTL_EPOCH_MIN : Fld := ⟨0xD100, 0, 11, 60⟩
def AGE_LIM_SLACK_PS : Fld := ⟨0xD108, 0, 16, 20⟩
def AGE_LIM_RET_MIN : Fld := ⟨0xD108, 16, 4, 2⟩
def AGE_LIM_EYE_MV : Fld := ⟨0xD108, 24, 8, 12⟩
def AGE_GUARD_MV : Fld := ⟨0xD110, 0, 8, 0⟩
def AGE_GUARD_INIT : Fld := ⟨0xD110, 8, 8, 15⟩
def AGE_ACLK_CEIL_MHZ : Fld := ⟨0xD118, 0, 16, 3300⟩
def AGE_ACLK_MHZ : Fld := ⟨0xD118, 16, 16, 0⟩
def AGE_ACLK_VCORE_MV : Fld := ⟨0xD118, 32, 16, 0⟩
def AGE_STS_EPOCH : Fld := ⟨0xD120, 0, 32, 0⟩
def AGE_STS_EXHAUSTED : Fld := ⟨0xD120, 32, 1, 0⟩
def AGE_STS_EQ_PENDING : Fld := ⟨0xD120, 36, 4, 0⟩
def AGE_LAST_SLACK_PS : Fld := ⟨0xD128, 0, 16, 0⟩
def AGE_LAST_ROSC_PPM : Fld := ⟨0xD128, 16, 16, 0⟩
def AGE_LAST_RET_K : Fld := ⟨0xD128, 32, 4, 0⟩
def AGE_LAST_EYE_MV : Fld := ⟨0xD128, 40, 8, 0⟩
def AGE_LEDGER_SEQ : Fld := ⟨0xD130, 0, 32, 0⟩
def AGE_HOURS : Fld := ⟨0xD138, 0, 32, 0⟩
def AGE_ACT_CNT : Fld := ⟨0xD140, 0, 16, 0⟩
def PWR_LIMIT_WATTS : Fld := ⟨0xE100, 0, 12, 3000⟩
def PWR_SPLIT_ARRAY : Fld := ⟨0xE108, 0, 10, 550⟩
def PWR_HYST_W : Fld := ⟨0xE110, 0, 10, 100⟩
def PWR_LVL_A : Fld := ⟨0xE118, 0, 4, 0⟩
def PWR_LVL_S : Fld := ⟨0xE118, 4, 4, 0⟩
def PWR_LVL_EFF_W : Fld := ⟨0xE118, 12, 12, 0⟩
def PWR_STATE : Fld := ⟨0xE118, 24, 3, 1⟩
def PWR_NOW : Fld := ⟨0xE120, 0, 64, 0⟩
def PWR_ENERGY : Fld := ⟨0xE128, 0, 64, 0⟩
def PWR_THR_NS : Fld := ⟨0xE130, 0, 48, 0⟩
def PWR_RAISE_CNT : Fld := ⟨0xE138, 0, 32, 0⟩
def PWR_VR_ALERT_CNT : Fld := ⟨0xE140, 0, 32, 0⟩
def TMP_MAX_TEMP : Fld := ⟨0xF100, 0, 8, 0⟩
def TMP_MAX_SENSOR : Fld := ⟨0xF100, 8, 8, 0⟩
def TMP_ALERT_TEMP : Fld := ⟨0xF108, 0, 8, 100⟩
def TMP_ALERT_SRC : Fld := ⟨0xF108, 8, 4, 5⟩
def TMP_ALERT_NOW : Fld := ⟨0xF108, 12, 4, 0⟩
def TMP_SENS_SEL : Fld := ⟨0xF110, 0, 8, 0⟩
def TMP_SENS_DATA_TEMP : Fld := ⟨0xF118, 0, 8, 0⟩
def TMP_SENS_DATA_PEAK : Fld := ⟨0xF118, 8, 8, 0⟩
def TMP_ALERT_CNT : Fld := ⟨0xF120, 0, 32, 0⟩
-- STA (06)
def STA_AMAX_BASE : Fld := ⟨0x10100, 0, 64, 0⟩
def STA_AMAX_EVERY : Fld := ⟨0x10120, 0, 16, 0⟩
def STA_AMAX_SEQ : Fld := ⟨0x10128, 0, 32, 0⟩
def STA_RETAKE_CNT : Fld := ⟨0x10130, 0, 32, 0⟩
def STA_CLAMP_CNT : Fld := ⟨0x10138, 0, 32, 0⟩
def STA_NAN_CNT : Fld := ⟨0x10140, 0, 32, 0⟩
-- ERL (19)
def ERL_RING_BASE : Fld := ⟨0x11100, 0, 64, 0⟩
def ERL_RING_EN : Fld := ⟨0x11108, 0, 1, 0⟩
def ERL_RING_SIZE : Fld := ⟨0x11108, 1, 5, 0⟩
def ERL_RING_HEAD : Fld := ⟨0x11110, 0, 32, 0⟩
def ERL_RING_TAIL : Fld := ⟨0x11118, 0, 32, 0⟩
def ERL_LOST : Fld := ⟨0x11120, 0, 32, 0⟩
def ERL_HELD_FRAME : Fld := ⟨0x11128, 0, 1, 0⟩
def ERL_HELD_DEVICE : Fld := ⟨0x11128, 1, 1, 0⟩
def ERL_HELD_TENANT : Fld := ⟨0x11128, 32, 32, 0⟩
def ERL_CNT_CORRECTED : Fld := ⟨0x11130, 0, 16, 0⟩
def ERL_CNT_SEQUENCE : Fld := ⟨0x11130, 16, 16, 0⟩
def ERL_CNT_TENANT : Fld := ⟨0x11130, 32, 16, 0⟩
def ERL_CNT_FRAME : Fld := ⟨0x11130, 48, 16, 0⟩
def ERL_FAIL_LIMIT : Fld := ⟨0x11138, 0, 8, 4⟩
def ERL_CORR_MAX : Fld := ⟨0x11138, 8, 16, 64⟩
def ERL_CORR_EVT : Fld := ⟨0x11138, 24, 1, 0⟩
def ERL_FAIL_RUN : Fld := ⟨0x11140, 0, 8, 0⟩
def ERL_RESET_KEY : Fld := ⟨0x11148, 0, 16, 0⟩
def ERL_FL_SEL : Fld := ⟨0x11150, 0, 12, 0⟩
def ERL_FL_DATA : Fld := ⟨0x11158, 0, 64, 0⟩
def ERL_RCV_ADDR : Fld := ⟨0x11198, 0, 64, 0⟩
def ERL_RCV_LEN : Fld := ⟨0x111A0, 0, 32, 0⟩
def ERL_RCV_TARGET : Fld := ⟨0x111A0, 32, 3, 0⟩
def ERL_RCV_GO : Fld := ⟨0x111A0, 35, 1, 0⟩
def ERL_RCV_FILE : Fld := ⟨0x111A0, 48, 16, 0⟩
def ERL_RCV_READY : Fld := ⟨0x111A8, 0, 1, 0⟩
def ERL_RCV_BUSY : Fld := ⟨0x111A8, 1, 1, 0⟩
def ERL_RCV_STATUS : Fld := ⟨0x111A8, 8, 8, 0⟩
def ERL_CNT_DEVICE : Fld := ⟨0x111B0, 0, 16, 0⟩
-- CFG (17)
def CFG_BASE_VERSION : Fld := ⟨0x12100, 0, 32, 0⟩
def CFG_BASE_MODE : Fld := ⟨0x12100, 32, 8, 0⟩
def CFG_BASE_DIG : Fld := ⟨0x12108, 0, 64, 0⟩
def CFG_OVL_LOADED : Fld := ⟨0x12110, 0, 1, 0⟩
def CFG_OVL_STARTUP : Fld := ⟨0x12110, 1, 1, 0⟩
def CFG_OVL_VERSION : Fld := ⟨0x12110, 32, 32, 0⟩
def CFG_STAGE_ADDR : Fld := ⟨0x12150, 0, 64, 0⟩
def CFG_STAGE_GO : Fld := ⟨0x12158, 0, 1, 0⟩
def CFG_STAGE_BUSY : Fld := ⟨0x12160, 0, 1, 0⟩
def CFG_STAGE_VALID : Fld := ⟨0x12160, 1, 1, 0⟩
def CFG_STAGE_STATUS : Fld := ⟨0x12160, 8, 8, 0⟩
def CFG_STAGE_VERSION : Fld := ⟨0x12160, 32, 32, 0⟩
def CFG_TBL_TYPE : Fld := ⟨0x12168, 0, 8, 0⟩
def CFG_TBL_ID : Fld := ⟨0x12168, 8, 8, 0⟩
def CFG_TBL_INDEX : Fld := ⟨0x12168, 16, 32, 0⟩
def CFG_TBL_DATA : Fld := ⟨0x12170, 0, 64, 0⟩
def CFG_APPLY_CNT : Fld := ⟨0x12180, 0, 32, 0⟩
def CFG_STAGE_FAIL : Fld := ⟨0x12188, 0, 32, 0⟩
def CFG_START_LOADED : Fld := ⟨0x12190, 0, 8, 0⟩
def CFG_START_FAILED : Fld := ⟨0x12198, 0, 16, 0⟩
-- DMA[n] (12)
def DMA_STS_BUSY : Fld := ⟨0x20100, 0, 1, 0⟩
def DMA_STS_PLANNED : Fld := ⟨0x20100, 1, 1, 0⟩
def DMA_STS_FUNC : Fld := ⟨0x20100, 8, 5, 0⟩
def DMA_STS_QUEUE : Fld := ⟨0x20100, 13, 3, 0⟩
def DMA_STS_OP : Fld := ⟨0x20100, 16, 8, 0⟩
def DMA_IN_B : Fld := ⟨0x20108, 0, 48, 0⟩
def DMA_OUT_B : Fld := ⟨0x20110, 0, 48, 0⟩
def DMA_DESC_CNT : Fld := ⟨0x20118, 0, 48, 0⟩
def DMA_DAMAGED_CNT : Fld := ⟨0x20120, 0, 32, 0⟩
def DMA_STALE_CNT : Fld := ⟨0x20120, 32, 32, 0⟩
def DMA_UNCORR_CNT : Fld := ⟨0x20128, 0, 32, 0⟩
def DMA_ABORT_CNT : Fld := ⟨0x20128, 32, 32, 0⟩
def DMA_CMP_NAN : Fld := ⟨0x20130, 0, 32, 0⟩
def DMA_RAW_CNT : Fld := ⟨0x20138, 0, 32, 0⟩
-- LNK[n] (14)
def LNK_CTL_EN : Fld := ⟨0x30100, 0, 1, 0⟩
def LNK_CTL_RETRAIN : Fld := ⟨0x30100, 1, 1, 0⟩
def LNK_STS_STATE : Fld := ⟨0x30108, 0, 3, 0⟩
def LNK_STS_WIDTH : Fld := ⟨0x30108, 3, 2, 0⟩
def LNK_STS_REVERSED : Fld := ⟨0x30108, 5, 1, 0⟩
def LNK_STS_PEER : Fld := ⟨0x30108, 6, 4, 0⟩
def LNK_STS_LOWRATE : Fld := ⟨0x30108, 10, 1, 0⟩
def LNK_LANES : Fld := ⟨0x30110, 0, 48, 0⟩
def LNK_RTT : Fld := ⟨0x30118, 0, 20, 0⟩
def LNK_TOPO_NX_M1 : Fld := ⟨0x30120, 0, 4, 0⟩
def LNK_TOPO_NY_M1 : Fld := ⟨0x30120, 4, 4, 0⟩
def LNK_TOPO_X : Fld := ⟨0x30120, 8, 4, 0⟩
def LNK_TOPO_Y : Fld := ⟨0x30120, 12, 4, 0⟩
def LNK_TOPO_RING : Fld := ⟨0x30120, 16, 1, 0⟩
def LNK_FAIL_UCW : Fld := ⟨0x30128, 0, 16, 16⟩
def LNK_FEC_CORR : Fld := ⟨0x30130, 0, 48, 0⟩
def LNK_FEC_UCW : Fld := ⟨0x30138, 0, 32, 0⟩
def LNK_REPLAY : Fld := ⟨0x30140, 0, 32, 0⟩
def LNK_RETRAIN_CNT : Fld := ⟨0x30148, 0, 16, 0⟩
def LNK_DEGRADE_CNT : Fld := ⟨0x30148, 16, 16, 0⟩
def LNK_TX_FLITS : Fld := ⟨0x30150, 0, 48, 0⟩
def LNK_RX_FLITS : Fld := ⟨0x30158, 0, 48, 0⟩
def LNK_FWD_FLITS : Fld := ⟨0x30160, 0, 48, 0⟩
def LNK_AUTH_FAIL : Fld := ⟨0x30168, 0, 32, 0⟩
def LNK_RVK_DROP : Fld := ⟨0x30168, 32, 32, 0⟩
def LNK_DROP : Fld := ⟨0x30170, 0, 32, 0⟩
-- ARY[n] (05)
def ARY_BIND_BOUND : Fld := ⟨0x40100, 0, 1, 0⟩
def ARY_BIND_REEL : Fld := ⟨0x40100, 1, 2, 0⟩
def ARY_BIND_POS : Fld := ⟨0x40100, 3, 6, 0⟩
def ARY_BIND_REPLICA : Fld := ⟨0x40100, 9, 6, 0⟩
def ARY_BIND_REPLICAS : Fld := ⟨0x40100, 15, 7, 0⟩
def ARY_BIND_SLOT_M1 : Fld := ⟨0x40100, 32, 10, 0⟩
def ARY_BIND_SLOTS : Fld := ⟨0x40100, 42, 6, 0⟩
def ARY_BIND_HOME : Fld := ⟨0x40100, 48, 1, 0⟩
def ARY_STS_KIND : Fld := ⟨0x40108, 0, 8, 0⟩
def ARY_STS_LAYER : Fld := ⟨0x40108, 8, 8, 0⟩
def ARY_STS_MB : Fld := ⟨0x40108, 16, 11, 0⟩
def ARY_STS_WAITING : Fld := ⟨0x40108, 27, 1, 0⟩
def ARY_STS_RETAKE : Fld := ⟨0x40108, 28, 1, 0⟩
def ARY_STS_BANK : Fld := ⟨0x40108, 29, 1, 0⟩
def ARY_BUSY_CYC : Fld := ⟨0x40110, 0, 48, 0⟩
def ARY_WAIT_CYC : Fld := ⟨0x40118, 0, 48, 0⟩
def ARY_STREAM_B : Fld := ⟨0x40120, 0, 48, 0⟩
def ARY_TILE_CNT : Fld := ⟨0x40128, 0, 48, 0⟩
def ARY_RETAKE_CNT : Fld := ⟨0x40130, 0, 32, 0⟩
def ARY_CLEAR_CNT : Fld := ⟨0x40138, 0, 32, 0⟩
def ARY_ECC_CORR : Fld := ⟨0x40140, 0, 16, 0⟩
def ARY_ECC_UNCORR : Fld := ⟨0x40140, 16, 16, 0⟩
def ARY_SLOT_TENANT : Fld := ⟨0x40148, 0, 5, 0⟩
def ARY_SLOT_VALID : Fld := ⟨0x40148, 5, 1, 0⟩
-- STK[n] (09, 17)
def STK_REF_TEMP : Fld := ⟨0x80100, 0, 64, 0x69645F554B41372D⟩
def STK_REF_WIN : Fld := ⟨0x80108, 0, 64, 0x0808102020404040⟩
def STK_REF_STS_BAND : Fld := ⟨0x80110, 0, 3, 0⟩
def STK_REF_STS_TEMP : Fld := ⟨0x80110, 8, 8, 0⟩
def STK_REF_STS_INTERVAL : Fld := ⟨0x80110, 16, 32, 0⟩
def STK_ACT_TH : Fld := ⟨0x80118, 0, 16, 2048⟩
def STK_ACT_FAW : Fld := ⟨0x80118, 16, 4, 8⟩
def STK_SCRUB_HOURS : Fld := ⟨0x80120, 0, 8, 24⟩
def STK_REF_CNT : Fld := ⟨0x80128, 0, 48, 0⟩
def STK_TREF_CNT : Fld := ⟨0x80130, 0, 32, 0⟩
def STK_REF_OVER : Fld := ⟨0x80138, 0, 32, 0⟩
def STK_ECC_CORR : Fld := ⟨0x80140, 0, 32, 0⟩
def STK_ECC_UNCORR : Fld := ⟨0x80140, 32, 32, 0⟩
def STK_UNPROT_RD : Fld := ⟨0x80148, 0, 48, 0⟩
def STK_REMAP_SEL : Fld := ⟨0x80150, 0, 10, 0⟩
def STK_REMAP : Fld := ⟨0x80158, 0, 52, 0⟩
-- ATN[n] (07)
def ATN_STS_BUSY : Fld := ⟨0xA0100, 0, 1, 0⟩
def ATN_STS_REEL : Fld := ⟨0xA0100, 1, 2, 0⟩
def ATN_STS_LAYER : Fld := ⟨0xA0100, 3, 8, 0⟩
def ATN_STS_WRITING : Fld := ⟨0xA0100, 11, 1, 0⟩
def ATN_WALK_CNT : Fld := ⟨0xA0108, 0, 48, 0⟩
def ATN_POS_CNT : Fld := ⟨0xA0110, 0, 48, 0⟩
def ATN_WR_CNT : Fld := ⟨0xA0118, 0, 48, 0⟩
def ATN_BUSY_CYC : Fld := ⟨0xA0120, 0, 48, 0⟩
def ATN_SKIP_CNT : Fld := ⟨0xA0128, 0, 32, 0⟩
def ATN_EMPTY_CNT : Fld := ⟨0xA0130, 0, 32, 0⟩
def ATN_ECC_CORR : Fld := ⟨0xA0138, 0, 16, 0⟩
def ATN_ECC_UNCORR : Fld := ⟨0xA0138, 16, 16, 0⟩
-- BNK[n] (08)
def BNK_MODE_PROC : Fld := ⟨0xC0100, 0, 30, 0⟩
def BNK_MODE_SWITCHING : Fld := ⟨0xC0100, 32, 30, 0⟩
def BNK_READY_CH30 : Fld := ⟨0xC0108, 0, 32, 0⟩
def BNK_READY_CH31 : Fld := ⟨0xC0108, 32, 32, 0⟩
def BNK_POLL_NS : Fld := ⟨0xC0110, 0, 8, 40⟩
def BNK_ARB_MAX_AHEAD : Fld := ⟨0xC0118, 0, 3, 4⟩
def BNK_STAGE_A_ROWS : Fld := ⟨0xC0120, 0, 8, 64⟩
def BNK_STAGE_B_ROWS : Fld := ⟨0xC0120, 8, 8, 64⟩
def BNK_FAULT_CHAN : Fld := ⟨0xC0128, 0, 5, 0⟩
def BNK_FAULT_BANK : Fld := ⟨0xC0128, 5, 5, 0⟩
def BNK_FAULT_PC : Fld := ⟨0xC0128, 10, 12, 0⟩
def BNK_FAULT_TYPE : Fld := ⟨0xC0128, 22, 3, 0⟩
def BNK_FAULT_ROW : Fld := ⟨0xC0128, 25, 17, 0⟩
def BNK_SWITCH_CNT : Fld := ⟨0xC0130, 0, 32, 0⟩
def BNK_RUN_CNT : Fld := ⟨0xC0138, 0, 48, 0⟩
def BNK_UNIT_CYC : Fld := ⟨0xC0140, 0, 48, 0⟩
def BNK_COLL_BEATS : Fld := ⟨0xC0148, 0, 48, 0⟩
def BNK_HOLD_CNT : Fld := ⟨0xC0150, 0, 32, 0⟩
def BNK_PAUSE_CNT : Fld := ⟨0xC0158, 0, 32, 0⟩
def BNK_CLEAR_CNT : Fld := ⟨0xC0160, 0, 32, 0⟩
def BNK_FAULT_CNT : Fld := ⟨0xC0168, 0, 16, 0⟩
-- RGN[n] (09)
def RGN_BOUND : Fld := ⟨0xE0100, 0, 6, 40⟩
def RGN_STS_CONVERTING : Fld := ⟨0xE0120, 0, 1, 0⟩
def RGN_CAP_PROT : Fld := ⟨0xE0128, 0, 16, 0⟩
def RGN_CAP_COMP : Fld := ⟨0xE0128, 16, 16, 0⟩
def RGN_CAP_RETIRED : Fld := ⟨0xE0128, 32, 16, 0⟩
def RGN_CAP_RETIRING : Fld := ⟨0xE0128, 48, 16, 0⟩
def RGN_CAP_STAGING : Fld := ⟨0xE0130, 0, 16, 0⟩
def RGN_CAP_MASK : Fld := ⟨0xE0130, 16, 16, 0⟩
def RGN_DLY_BLOCKS : Fld := ⟨0xE0138, 0, 16, 256⟩
def RGN_DLY_POS_OBJ : Fld := ⟨0xE0140, 0, 16, 0⟩
def RGN_DLY_POS_BLOCK : Fld := ⟨0xE0140, 16, 32, 0⟩
def RGN_DLY_CHECKED : Fld := ⟨0xE0148, 0, 48, 0⟩
def RGN_DLY_REPAIRED : Fld := ⟨0xE0150, 0, 32, 0⟩
def RGN_DLY_FAILED : Fld := ⟨0xE0150, 32, 32, 0⟩
def RGN_DLY_SWEEPS : Fld := ⟨0xE0158, 0, 32, 0⟩
def RGN_MASK_USE : Fld := ⟨0xE0160, 0, 64, 0⟩
def RGN_MASK_POOL_USED : Fld := ⟨0xE0168, 0, 16, 0⟩
def RGN_MASK_POOL_PEAK : Fld := ⟨0xE0168, 16, 16, 0⟩

def specsHub : List Spec := [
  ⟨HUB_INFO_STEPPING, 1, 0, 1, 0, .ro, .none, .phys, .plain⟩,
  ⟨HUB_INFO_ARRAYS, 1, 0, 1, 0, .ro, .none, .phys, .plain⟩,
  ⟨HUB_INFO_STACKS, 1, 0, 1, 0, .ro, .none, .phys, .plain⟩,
  ⟨HUB_INFO_DMA, 1, 0, 1, 0, .ro, .none, .phys, .plain⟩,
  ⟨HUB_TOD, 1, 0, 1, 0, .rw, .none, .phys, .tod⟩,
  ⟨HUB_UPTIME, 1, 0, 1, 0, .ro, .none, .phys, .plain⟩]

def specsFrm : List Spec := [
  ⟨FRM_CTL_RUN, 1, 0, 1, 0, .rw, .none, .phys, .run⟩,
  ⟨FRM_CTL_GATE, 1, 0, 1, 0, .rw, .none, .phys, .plain⟩,
  ⟨FRM_CTL_FSYNC_OUT_EN, 1, 0, 1, 0, .rw, .named, .phys, .plain⟩,
  ⟨FRM_CTL_FRAME_INT_EN, 1, 0, 1, 0, .rw, .none, .phys, .plain⟩,
  ⟨FRM_CTL_SLIP_INT_EN, 1, 0, 1, 0, .rw, .none, .phys, .plain⟩,
  ⟨FRM_CFG_SRC, 1, 0, 1, 0, .rw, .named, .phys, .denyRun⟩,
  ⟨FRM_CFG_ROLE, 1, 0, 1, 0, .rw, .named, .phys, .denyRun⟩,
  ⟨FRM_PERIOD, 1, 0, 1, 0, .rwt, .named, .shared, .period⟩,
  ⟨FRM_RESERVE, 1, 0, 1, 0, .rwt, .named, .phys, (.rng 0 250)⟩,
  ⟨FRM_SLIP_LIMIT, 1, 0, 1, 0, .rwt, .named, .phys, (.rng 2 255)⟩,
  ⟨FRM_TICK, 1, 0, 1, 0, .ro, .none, .shared, .plain⟩,
  ⟨FRM_FRAME, 1, 0, 1, 0, .ro, .none, .shared, .plain⟩,
  ⟨OPEN_TICK, 1, 0, 1, 0, .ro, .none, .shared, .plain⟩,
  ⟨FRM_STS_PHASE, 1, 0, 1, 0, .ro, .none, .shared, .plain⟩,
  ⟨FRM_STS_LOCKED, 1, 0, 1, 0, .ro, .none, .shared, .plain⟩,
  ⟨FRM_STS_SLIPPING, 1, 0, 1, 0, .ro, .none, .shared, .plain⟩,
  ⟨FRM_NOW, 1, 0, 1, 0, .ro, .none, .shared, .plain⟩,
  ⟨FRM_LAST_SLIP_FRAME, 1, 0, 1, 0, .ro, .none, .phys, .plain⟩,
  ⟨FRM_LAST_SLIP_SKIPPED, 1, 0, 1, 0, .ro, .none, .phys, .plain⟩,
  ⟨FRM_LAST_SLIP_CAUSE, 1, 0, 1, 0, .ro, .none, .phys, .plain⟩,
  ⟨FRM_LAST_CAUSES, 1, 0, 1, 0, .ro, .none, .phys, .plain⟩,
  ⟨FRM_LAST_OVERRUN, 1, 0, 1, 0, .ro, .none, .phys, .plain⟩,
  ⟨FRM_SLIP_CNT, 6, 8, 1, 0, .rc, .none, .phys, .plain⟩,
  ⟨FRM_SKIP_CNT, 1, 0, 1, 0, .ro, .none, .phys, .plain⟩,
  ⟨FRM_FSYNC_MISSED, 1, 0, 1, 0, .rc, .none, .phys, .plain⟩,
  ⟨FRM_FSYNC_EARLY, 1, 0, 1, 0, .rc, .none, .phys, .plain⟩,
  ⟨FRM_BEACON_COMP_PS, 1, 0, 1, 0, .ro, .none, .phys, .plain⟩,
  ⟨FRM_BEACON_HOPS, 1, 0, 1, 0, .ro, .none, .phys, .plain⟩,
  ⟨FRM_BEACON_PORT, 1, 0, 1, 0, .ro, .none, .phys, .plain⟩]

def specsCsh : List Spec := [
  ⟨CSH_OCC0_FREE, 1, 0, 1, 0, .ro, .none, .phys, .plain⟩,
  ⟨CSH_OCC0_STAGED, 1, 0, 1, 0, .ro, .none, .phys, .plain⟩,
  ⟨CSH_OCC0_FEEDING, 1, 0, 1, 0, .ro, .none, .phys, .plain⟩,
  ⟨CSH_OCC0_DECODING, 1, 0, 1, 0, .ro, .none, .phys, .plain⟩,
  ⟨CSH_OCC1_FINISHED, 1, 0, 1, 0, .ro, .none, .phys, .plain⟩,
  ⟨CSH_OCC1_FAULTED, 1, 0, 1, 0, .ro, .none, .phys, .plain⟩,
  ⟨CSH_OCC1_STRIKING, 1, 0, 1, 0, .ro, .none, .phys, .plain⟩,
  ⟨CSH_RANGE_BASE, 32, 8, 1, 0, .ro, .none, .phys, .plain⟩,
  ⟨CSH_RANGE_COUNT, 32, 8, 1, 0, .ro, .none, .phys, .plain⟩,
  ⟨CSH_LATE_CNT, 1, 0, 1, 0, .rc, .none, .phys, .plain⟩,
  ⟨CSH_FAULT_CNT, 1, 0, 1, 0, .rc, .none, .phys, .plain⟩,
  ⟨CSH_DRAFT_ACC, 1, 0, 1, 0, .rc, .none, .phys, .plain⟩,
  ⟨CSH_DRAFT_REJ, 1, 0, 1, 0, .rc, .none, .phys, .plain⟩,
  ⟨CSH_GROW, 1, 0, 1, 0, .rwt, .named, .phys, .grow⟩,
  ⟨CSH_EDIT_SWAPPED, 1, 0, 1, 0, .rc, .none, .phys, .plain⟩,
  ⟨CSH_EDIT_REPLACED, 1, 0, 1, 0, .rc, .none, .phys, .plain⟩]

def specsShl : List Spec := [
  ⟨SHL_POLICY_URGENT_BOOST, 1, 0, 1, 0, .rwt, .named, .phys, .plain⟩,
  ⟨SHL_POLICY_AGE_FRAMES, 1, 0, 1, 0, .rwt, .named, .phys, .plain⟩,
  ⟨SHL_POLICY_PATH_FORCE, 1, 0, 1, 0, .rwt, .none, .phys, (.enum 2)⟩,
  ⟨SHL_ADM_LEVEL, 1, 0, 1, 0, .ro, .none, .phys, .plain⟩,
  ⟨SHL_ADM_RECOVER, 1, 0, 1, 0, .rwt, .named, .phys, (.rng 1 255)⟩,
  ⟨SHL_ADM_CURVE0, 1, 0, 1, 0, .rwt, .named, .phys, .curve0⟩,
  ⟨SHL_ADM_CURVE1, 1, 0, 1, 0, .rwt, .named, .phys, .curve1⟩,
  ⟨SHL_PATH_CURVE, 1, 0, 1, 0, .rwt, .named, .phys, .plain⟩,
  ⟨SHL_CHUNK_SHARE, 1, 0, 1, 0, .rwt, .named, .phys, (.rng 0 1000)⟩,
  ⟨SHL_CHUNK_MAX, 1, 0, 1, 0, .rwt, .named, .phys, (.rng 16 2048)⟩,
  ⟨SHL_STREAM_AHEAD, 1, 0, 1, 0, .rwt, .named, .phys, (.rng 1 8)⟩,
  ⟨SHL_STRIKE_MIN_ROWS, 1, 0, 1, 0, .rwt, .named, .phys, .plain⟩,
  ⟨SHL_REPORT_BASE, 1, 0, 1, 0, .rwt, .none, .own, (.align 12)⟩,
  ⟨SHL_REPORT_CTL_SLOTS, 1, 0, 1, 0, .rwt, .none, .own, .plain⟩,
  ⟨SHL_REPORT_CTL_HEAD, 1, 0, 1, 0, .ro, .none, .own, .plain⟩,
  ⟨SHL_LAST_PRED_PRED_NS, 1, 0, 1, 0, .ro, .none, .phys, .plain⟩,
  ⟨SHL_LAST_PRED_ROLL_NS, 1, 0, 1, 0, .ro, .none, .phys, .plain⟩,
  ⟨SHL_LAST_BUDGET_PLAN_NS, 1, 0, 1, 0, .ro, .none, .phys, .plain⟩,
  ⟨SHL_LAST_BUDGET_ADM_NS, 1, 0, 1, 0, .ro, .none, .phys, .plain⟩,
  ⟨SHL_DEFER_CNT, 1, 0, 1, 0, .rc, .none, .phys, .plain⟩]

def specsSmp : List Spec := [
  ⟨SMP_INT_VECTOR, 1, 0, 1, 0, .rw, .none, .own, .vector⟩,
  ⟨SMP_INT_EN, 1, 0, 1, 0, .rw, .none, .own, .plain⟩,
  ⟨SMP_INT_MODE, 1, 0, 1, 0, .rw, .none, .own, .plain⟩,
  ⟨SMP_TOK_CNT, 1, 0, 1, 0, .rc, .none, .own, .plain⟩,
  ⟨SMP_EMPTY_CNT, 1, 0, 1, 0, .rc, .none, .own, .plain⟩,
  ⟨SMP_WAIT_NS, 1, 0, 1, 0, .rc, .none, .own, .plain⟩,
  ⟨SMP_OR_BASE, 64, 32, 1, 0, .rwt, .none, .own, .orBase⟩,
  ⟨SMP_OR_EN, 64, 32, 1, 0, .rwt, .none, .own, .orEn⟩,
  ⟨SMP_OR_SIZE, 64, 32, 1, 0, .rwt, .none, .own, .orSize⟩,
  ⟨SMP_OR_HEAD, 64, 32, 1, 0, .rw, .none, .own, .orHead⟩,
  ⟨SMP_OR_TAIL, 64, 32, 1, 0, .ro, .none, .own, .plain⟩]

def specsUmr : List Spec := [
  ⟨UMR_WIN_BASE, 32, 8, 1, 0, .ro, .none, .phys, .plain⟩,
  ⟨UMR_WIN_SIZE, 32, 8, 1, 0, .ro, .none, .phys, .plain⟩,
  ⟨UMR_APT_BASE, 1, 0, 1, 0, .rw, .none, .phys, (.rng 0 4161536)⟩,
  ⟨UMR_STREAM_OBJ, 4, 8, 1, 0, .rw, .none, .phys, .stream⟩,
  ⟨UMR_STREAM_SLOTS, 4, 8, 1, 0, .rw, .none, .phys, .streamSlots⟩,
  ⟨UMR_STREAM_EN, 4, 8, 1, 0, .rw, .none, .phys, .streamEn⟩,
  ⟨UMR_CAP_STACK_FREE, 1, 0, 1, 0, .ro, .none, .phys, .plain⟩,
  ⟨UMR_CAP_BOARD_FREE, 1, 0, 1, 0, .ro, .none, .phys, .plain⟩,
  ⟨UMR_OBJ_CNT, 1, 0, 1, 0, .ro, .none, .phys, .plain⟩,
  ⟨UMR_APT_DROP, 1, 0, 1, 0, .rc, .none, .phys, .plain⟩,
  ⟨UMR_DENY_CNT, 1, 0, 1, 0, .rc, .none, .phys, .plain⟩,
  ⟨UMR_OBJ_SEL, 1, 0, 1, 0, .rw, .none, .own, .plain⟩,
  ⟨UMR_OBJ_DATA, 8, 8, 1, 0, .ro, .none, .own, .plain⟩,
  ⟨UMR_XT_SEL, 1, 0, 1, 0, .rw, .none, .phys, .plain⟩,
  ⟨UMR_XT_DATA, 1, 0, 1, 0, .ro, .none, .phys, .plain⟩]

def specsMig : List Spec := [
  ⟨MIG_CTL_EN, 1, 0, 1, 0, .rw, .named, .phys, .plain⟩,
  ⟨MIG_STS_OBJ0, 1, 0, 1, 0, .ro, .none, .phys, .plain⟩,
  ⟨MIG_STS_OBJ1, 1, 0, 1, 0, .ro, .none, .phys, .plain⟩,
  ⟨MIG_STS_BUSY0, 1, 0, 1, 0, .ro, .none, .phys, .plain⟩,
  ⟨MIG_STS_BUSY1, 1, 0, 1, 0, .ro, .none, .phys, .plain⟩,
  ⟨MIG_PROMO_CNT, 1, 0, 1, 0, .rc, .none, .phys, .plain⟩,
  ⟨MIG_DEMO_CNT, 1, 0, 1, 0, .rc, .none, .phys, .plain⟩,
  ⟨MIG_STALL_CNT, 1, 0, 1, 0, .rc, .none, .phys, .plain⟩,
  ⟨MIG_RELOC_CNT, 1, 0, 1, 0, .rc, .none, .phys, .plain⟩,
  ⟨MIG_SM_VER, 1, 0, 1, 0, .ro, .derived, .phys, .plain⟩,
  ⟨MIG_NOROOM_CNT, 1, 0, 1, 0, .rc, .none, .phys, .plain⟩]

def specsXpd : List Spec := [
  ⟨XPD_Q_BASE, 8, 32, 1, 0, .rwt, .none, .own, .xqBase⟩,
  ⟨XPD_Q_EN, 8, 32, 1, 0, .rwt, .none, .own, .xqEn⟩,
  ⟨XPD_Q_SIZE, 8, 32, 1, 0, .rwt, .none, .own, .xqSize⟩,
  ⟨XPD_Q_ENGINE, 8, 32, 1, 0, .rwt, .none, .own, .xqEngine⟩,
  ⟨XPD_Q_RESUME, 8, 32, 1, 0, .wo, .none, .own, .xqResume⟩,
  ⟨XPD_Q_TAIL, 8, 32, 1, 0, .rw, .none, .own, .xqTail⟩,
  ⟨XPD_Q_HEAD, 8, 32, 1, 0, .ro, .none, .own, .plain⟩,
  ⟨XPD_Q_HALTED, 8, 32, 1, 0, .ro, .none, .own, .plain⟩,
  ⟨XPD_SLOT_OWN, 8, 8, 8, 8, .rwt, .named, .phys, .owner⟩,
  ⟨XPD_SLOT_GEN, 64, 8, 1, 0, .ro, .none, .own, .plain⟩,
  ⟨XPD_SLOT_LOADED, 64, 8, 1, 0, .ro, .none, .own, .plain⟩]

def specsBdm : List Spec := [
  ⟨BDM_CFG_RATE, 1, 0, 1, 0, .ro, .named, .phys, (.enum 2)⟩,
  ⟨BDM_CFG_RANKS_M1, 1, 0, 1, 0, .ro, .named, .phys, .plain⟩,
  ⟨BDM_CFG_RANK_SIZE, 1, 0, 1, 0, .ro, .named, .phys, (.enum 2)⟩,
  ⟨BDM_STS_TRAINED, 1, 0, 1, 0, .ro, .none, .phys, .plain⟩,
  ⟨BDM_STS_MR4_MAX, 1, 0, 1, 0, .ro, .none, .phys, .plain⟩,
  ⟨BDM_CAP_GRANULES, 1, 0, 1, 0, .ro, .none, .phys, .plain⟩,
  ⟨BDM_CAP_RETIRED, 1, 0, 1, 0, .ro, .none, .phys, .plain⟩,
  ⟨BDM_ZS_CNT, 1, 0, 1, 0, .ro, .none, .phys, .plain⟩,
  ⟨BDM_LECC_CORR, 1, 0, 1, 0, .rc, .none, .phys, .plain⟩,
  ⟨BDM_LECC_UNCORR, 1, 0, 1, 0, .rc, .none, .phys, .plain⟩,
  ⟨BDM_RD_B, 1, 0, 1, 0, .rc, .none, .phys, .plain⟩,
  ⟨BDM_WR_B, 1, 0, 1, 0, .rc, .none, .phys, .plain⟩,
  ⟨BDM_FILL_CNT, 1, 0, 1, 0, .rc, .none, .phys, .plain⟩]

def specsFlc : List Spec := [
  ⟨FLC_CFG_RATE, 1, 0, 1, 0, .ro, .named, .phys, .plain⟩,
  ⟨FLC_CFG_CH_MASK, 1, 0, 1, 0, .ro, .named, .phys, .chMask⟩,
  ⟨FLC_CAP_GIB, 1, 0, 1, 0, .ro, .none, .phys, .plain⟩,
  ⟨FLC_BAD, 1, 0, 1, 0, .ro, .none, .phys, .plain⟩,
  ⟨FLC_WEAR_MAX_PE, 1, 0, 1, 0, .ro, .none, .phys, .plain⟩,
  ⟨FLC_WEAR_MIN_PE, 1, 0, 1, 0, .ro, .none, .phys, .plain⟩,
  ⟨FLC_POLICY_READ_LIMIT, 1, 0, 1, 0, .ro, .named, .phys, .plain⟩,
  ⟨FLC_POLICY_WEAR_GAP, 1, 0, 1, 0, .ro, .named, .phys, .plain⟩,
  ⟨FLC_RELOC_CNT, 1, 0, 1, 0, .rc, .none, .phys, .plain⟩,
  ⟨FLC_ECC_RETRY, 1, 0, 1, 0, .rc, .none, .phys, .plain⟩,
  ⟨FLC_ECC_UNCORR, 1, 0, 1, 0, .rc, .none, .phys, .plain⟩,
  ⟨FLC_STS_READY, 1, 0, 1, 0, .ro, .none, .phys, .plain⟩,
  ⟨FLC_STS_BOOT_COPY, 1, 0, 1, 0, .ro, .none, .phys, .plain⟩]

def specsPci : List Spec := [
  ⟨PCI_SQ_BASE, 4, 32, 1, 0, .rwt, .none, .own, .sqBase⟩,
  ⟨PCI_SQ_EN, 4, 32, 1, 0, .rwt, .none, .own, .sqEn⟩,
  ⟨PCI_SQ_SIZE, 4, 32, 1, 0, .rwt, .none, .own, .sqSize⟩,
  ⟨PCI_SQ_TAIL, 4, 32, 1, 0, .rw, .none, .own, .sqTail⟩,
  ⟨PCI_SQ_HEAD, 4, 32, 1, 0, .ro, .none, .own, .plain⟩,
  ⟨PCI_EVR_BASE, 1, 0, 1, 0, .rwt, .none, .own, .evrBase⟩,
  ⟨PCI_EVR_EN, 1, 0, 1, 0, .rwt, .none, .own, .evrEn⟩,
  ⟨PCI_EVR_SIZE, 1, 0, 1, 0, .rwt, .none, .own, .evrSize⟩,
  ⟨PCI_EVR_HEAD, 1, 0, 1, 0, .rw, .none, .own, .evrHead⟩,
  ⟨PCI_EVR_TAIL, 1, 0, 1, 0, .ro, .none, .own, .plain⟩,
  ⟨PCI_EVR_LOST, 1, 0, 1, 0, .rc, .none, .own, .plain⟩,
  ⟨PCI_EVT_VECTOR, 1, 0, 1, 0, .rw, .none, .own, .plain⟩,
  ⟨PCI_EVT_EN, 1, 0, 1, 0, .rw, .none, .own, .plain⟩,
  ⟨PCI_EVT_HOLDOFF_US, 1, 0, 1, 0, .rw, .none, .own, .plain⟩,
  ⟨PCI_CSV_FIRST, 1, 0, 1, 0, .rw, .none, .own, .csvFirst⟩,
  ⟨PCI_FN_STS_FUNC, 1, 0, 1, 0, .ro, .none, .own, .plain⟩,
  ⟨PCI_FN_STS_TENANT, 1, 0, 1, 0, .ro, .none, .own, .plain⟩,
  ⟨PCI_FN_STS_BOUND, 1, 0, 1, 0, .ro, .none, .own, .plain⟩,
  ⟨PCI_FN_STS_STRIKING, 1, 0, 1, 0, .ro, .none, .own, .plain⟩,
  ⟨PCI_FN_STS_CONF, 1, 0, 1, 0, .ro, .derived, .own, .plain⟩,
  ⟨PCI_FN_STS_TDISP, 1, 0, 1, 0, .ro, .none, .own, .plain⟩,
  ⟨PCI_DROP, 1, 0, 1, 0, .rc, .none, .own, .plain⟩,
  ⟨PCI_CMD_CNT, 1, 0, 1, 0, .rc, .none, .own, .plain⟩,
  ⟨PCI_FETCH_ERR, 1, 0, 1, 0, .rc, .none, .own, .plain⟩,
  ⟨PCI_LINK_WIDTH, 1, 0, 1, 0, .ro, .none, .phys, .plain⟩,
  ⟨PCI_LINK_L0P_WIDTH, 1, 0, 1, 0, .ro, .none, .phys, .plain⟩,
  ⟨PCI_LINK_SPEED, 1, 0, 1, 0, .ro, .none, .phys, .plain⟩,
  ⟨PCI_LINK_IDE_LINK, 1, 0, 1, 0, .ro, .none, .phys, .plain⟩,
  ⟨PCI_LINK_SEL_STREAMS, 1, 0, 1, 0, .ro, .none, .phys, .plain⟩,
  ⟨PCI_FN_TENANT, 32, 8, 1, 0, .ro, .none, .phys, .plain⟩,
  ⟨PCI_FN_BOUND, 32, 8, 1, 0, .ro, .none, .phys, .plain⟩,
  ⟨PCI_FN_STRIKING, 32, 8, 1, 0, .ro, .none, .phys, .plain⟩,
  ⟨PCI_FN_TDISP, 32, 8, 1, 0, .ro, .none, .phys, .plain⟩,
  ⟨MSIX_ADDR, 64, 16, 1, 0, .rw, .none, .own, .plain⟩,
  ⟨MSIX_DATA, 64, 16, 1, 0, .rw, .none, .own, .plain⟩,
  ⟨MSIX_MASK, 64, 16, 1, 0, .rw, .none, .own, .msixMask⟩,
  ⟨MSIX_PBA, 1, 0, 1, 0, .ro, .none, .own, .plain⟩]

def specsMtp : List Spec := [
  ⟨MTP_MBX_OP, 1, 0, 1, 0, .wo, .none, .phys, .mbxOp⟩,
  ⟨MTP_MBX_CMD_SEQ, 1, 0, 1, 0, .wo, .none, .phys, .mbxSeq⟩,
  ⟨MTP_MBX_ARG, 6, 8, 1, 0, .rw, .none, .phys, .plain⟩,
  ⟨MTP_MBX_BUSY, 1, 0, 1, 0, .ro, .none, .phys, .plain⟩,
  ⟨MTP_MBX_SEQ, 1, 0, 1, 0, .ro, .none, .phys, .plain⟩,
  ⟨MTP_MBX_STATUS, 1, 0, 1, 0, .ro, .none, .phys, .plain⟩,
  ⟨MTP_MODE_MODE, 1, 0, 1, 0, .ro, .derived, .phys, .plain⟩,
  ⟨MTP_MODE_DEBUG_OBSERVE, 1, 0, 1, 0, .ro, .none, .phys, .plain⟩,
  ⟨MTP_MODE_DEBUG_DATA, 1, 0, 1, 0, .ro, .none, .phys, .plain⟩,
  ⟨MTP_FW_SVN, 1, 0, 1, 0, .ro, .none, .phys, .plain⟩,
  ⟨MTP_LOG_COUNT, 1, 0, 1, 0, .ro, .none, .phys, .plain⟩,
  ⟨MTP_LOG_OVERFLOW, 1, 0, 1, 0, .ro, .none, .phys, .plain⟩,
  ⟨MTP_ID, 4, 8, 1, 0, .ro, .none, .phys, .plain⟩,
  ⟨MTP_ID_OK, 1, 0, 1, 0, .ro, .none, .phys, .plain⟩]

def specsKey : List Spec := [
  ⟨KEY_SLOT_STATE, 32, 8, 1, 0, .ro, .none, .phys, .plain⟩,
  ⟨KEY_SLOT_FUNC, 32, 8, 1, 0, .ro, .none, .phys, .plain⟩,
  ⟨KEY_SLOT_EPOCH, 32, 8, 1, 0, .ro, .none, .phys, .plain⟩,
  ⟨KEY_TORUS_HELD, 1, 0, 1, 0, .ro, .none, .phys, .plain⟩,
  ⟨KEY_TORUS_ID0, 1, 0, 1, 0, .ro, .none, .phys, .plain⟩,
  ⟨KEY_TORUS_ID1, 1, 0, 1, 0, .ro, .none, .phys, .plain⟩,
  ⟨KEY_DRAIN_DMA, 1, 0, 1, 0, .ro, .none, .phys, .plain⟩,
  ⟨KEY_DRAIN_PORT, 1, 0, 1, 0, .ro, .none, .phys, .plain⟩,
  ⟨KEY_DRAIN_PEER, 1, 0, 1, 0, .ro, .none, .phys, .plain⟩,
  ⟨KEY_DRAIN_TENANT, 1, 0, 1, 0, .ro, .none, .phys, .plain⟩,
  ⟨KEY_RVK_CNT, 1, 0, 1, 0, .rc, .none, .phys, .plain⟩,
  ⟨KEY_RVK_LATE, 1, 0, 1, 0, .rc, .none, .phys, .plain⟩,
  ⟨KEY_PEER_RVK, 1, 0, 1, 0, .rc, .none, .phys, .plain⟩]

def specsAge : List Spec := [
  ⟨AGE_CTL_EPOCH_MIN, 1, 0, 1, 0, .rwt, .named, .phys, (.rng 10 1440)⟩,
  ⟨AGE_LIM_SLACK_PS, 1, 0, 1, 0, .rwt, .named, .phys, .plain⟩,
  ⟨AGE_LIM_RET_MIN, 1, 0, 1, 0, .rwt, .named, .phys, (.rng 2 8)⟩,
  ⟨AGE_LIM_EYE_MV, 1, 0, 1, 0, .rwt, .named, .phys, .plain⟩,
  ⟨AGE_GUARD_MV, 1, 0, 1, 0, .ro, .none, .phys, .plain⟩,
  ⟨AGE_GUARD_INIT, 1, 0, 1, 0, .ro, .named, .phys, (.rng 10 60)⟩,
  ⟨AGE_ACLK_CEIL_MHZ, 1, 0, 1, 0, .ro, .none, .phys, .plain⟩,
  ⟨AGE_ACLK_MHZ, 1, 0, 1, 0, .ro, .none, .phys, .plain⟩,
  ⟨AGE_ACLK_VCORE_MV, 1, 0, 1, 0, .ro, .none, .phys, .plain⟩,
  ⟨AGE_STS_EPOCH, 1, 0, 1, 0, .ro, .none, .phys, .plain⟩,
  ⟨AGE_STS_EXHAUSTED, 1, 0, 1, 0, .ro, .none, .phys, .plain⟩,
  ⟨AGE_STS_EQ_PENDING, 1, 0, 1, 0, .ro, .none, .phys, .plain⟩,
  ⟨AGE_LAST_SLACK_PS, 1, 0, 1, 0, .ro, .none, .phys, .plain⟩,
  ⟨AGE_LAST_ROSC_PPM, 1, 0, 1, 0, .ro, .none, .phys, .plain⟩,
  ⟨AGE_LAST_RET_K, 1, 0, 1, 0, .ro, .none, .phys, .plain⟩,
  ⟨AGE_LAST_EYE_MV, 1, 0, 1, 0, .ro, .none, .phys, .plain⟩,
  ⟨AGE_LEDGER_SEQ, 1, 0, 1, 0, .ro, .none, .phys, .plain⟩,
  ⟨AGE_HOURS, 1, 0, 1, 0, .ro, .none, .phys, .plain⟩,
  ⟨AGE_ACT_CNT, 1, 0, 1, 0, .rc, .none, .phys, .plain⟩]

def specsPwr : List Spec := [
  ⟨PWR_LIMIT_WATTS, 1, 0, 1, 0, .rwt, .named, .phys, (.rng 1000 3000)⟩,
  ⟨PWR_SPLIT_ARRAY, 1, 0, 1, 0, .rwt, .named, .phys, (.rng 0 1000)⟩,
  ⟨PWR_HYST_W, 1, 0, 1, 0, .rwt, .named, .phys, (.rng 10 500)⟩,
  ⟨PWR_LVL_A, 1, 0, 1, 0, .ro, .none, .phys, .plain⟩,
  ⟨PWR_LVL_S, 1, 0, 1, 0, .ro, .none, .phys, .plain⟩,
  ⟨PWR_LVL_EFF_W, 1, 0, 1, 0, .ro, .none, .phys, .plain⟩,
  ⟨PWR_STATE, 1, 0, 1, 0, .ro, .none, .phys, .plain⟩,
  ⟨PWR_NOW, 1, 0, 1, 0, .ro, .none, .phys, .plain⟩,
  ⟨PWR_ENERGY, 1, 0, 1, 0, .ro, .none, .phys, .plain⟩,
  ⟨PWR_THR_NS, 1, 0, 1, 0, .rc, .none, .phys, .plain⟩,
  ⟨PWR_RAISE_CNT, 1, 0, 1, 0, .rc, .none, .phys, .plain⟩,
  ⟨PWR_VR_ALERT_CNT, 1, 0, 1, 0, .rc, .none, .phys, .plain⟩]

def specsTmp : List Spec := [
  ⟨TMP_MAX_TEMP, 1, 0, 1, 0, .ro, .none, .phys, .plain⟩,
  ⟨TMP_MAX_SENSOR, 1, 0, 1, 0, .ro, .none, .phys, .plain⟩,
  ⟨TMP_ALERT_TEMP, 1, 0, 1, 0, .rwt, .named, .phys, (.rng 90 105)⟩,
  ⟨TMP_ALERT_SRC, 1, 0, 1, 0, .rw, .named, .phys, .alertSrc⟩,
  ⟨TMP_ALERT_NOW, 1, 0, 1, 0, .ro, .none, .phys, .plain⟩,
  ⟨TMP_SENS_SEL, 1, 0, 1, 0, .rw, .none, .phys, .plain⟩,
  ⟨TMP_SENS_DATA_TEMP, 1, 0, 1, 0, .ro, .none, .phys, .plain⟩,
  ⟨TMP_SENS_DATA_PEAK, 1, 0, 1, 0, .rc, .none, .phys, .plain⟩,
  ⟨TMP_ALERT_CNT, 1, 0, 1, 0, .rc, .none, .phys, .plain⟩]

def specsSta : List Spec := [
  ⟨STA_AMAX_BASE, 4, 8, 1, 0, .rwt, .none, .phys, (.align 6)⟩,
  ⟨STA_AMAX_EVERY, 1, 0, 1, 0, .rwt, .none, .phys, .plain⟩,
  ⟨STA_AMAX_SEQ, 1, 0, 1, 0, .ro, .none, .phys, .plain⟩,
  ⟨STA_RETAKE_CNT, 1, 0, 1, 0, .rc, .none, .phys, .plain⟩,
  ⟨STA_CLAMP_CNT, 1, 0, 1, 0, .rc, .none, .phys, .plain⟩,
  ⟨STA_NAN_CNT, 1, 0, 1, 0, .rc, .none, .phys, .plain⟩]

def specsErl : List Spec := [
  ⟨ERL_RING_BASE, 1, 0, 1, 0, .rwt, .none, .phys, .erlBase⟩,
  ⟨ERL_RING_EN, 1, 0, 1, 0, .rwt, .none, .phys, .erlEn⟩,
  ⟨ERL_RING_SIZE, 1, 0, 1, 0, .rwt, .none, .phys, .erlSize⟩,
  ⟨ERL_RING_HEAD, 1, 0, 1, 0, .rw, .none, .phys, .erlHead⟩,
  ⟨ERL_RING_TAIL, 1, 0, 1, 0, .ro, .none, .phys, .plain⟩,
  ⟨ERL_LOST, 1, 0, 1, 0, .rc, .none, .phys, .plain⟩,
  ⟨ERL_HELD_FRAME, 1, 0, 1, 0, .w1c, .none, .phys, .plain⟩,
  ⟨ERL_HELD_DEVICE, 1, 0, 1, 0, .ro, .none, .phys, .plain⟩,
  ⟨ERL_HELD_TENANT, 1, 0, 1, 0, .w1c, .none, .phys, .plain⟩,
  ⟨ERL_CNT_CORRECTED, 1, 0, 1, 0, .rc, .none, .phys, .plain⟩,
  ⟨ERL_CNT_SEQUENCE, 1, 0, 1, 0, .rc, .none, .phys, .plain⟩,
  ⟨ERL_CNT_TENANT, 1, 0, 1, 0, .rc, .none, .phys, .plain⟩,
  ⟨ERL_CNT_FRAME, 1, 0, 1, 0, .rc, .none, .phys, .plain⟩,
  ⟨ERL_FAIL_LIMIT, 1, 0, 1, 0, .rwt, .named, .phys, (.rng 1 255)⟩,
  ⟨ERL_CORR_MAX, 1, 0, 1, 0, .rwt, .named, .phys, .plain⟩,
  ⟨ERL_CORR_EVT, 1, 0, 1, 0, .rwt, .named, .phys, .plain⟩,
  ⟨ERL_FAIL_RUN, 1, 0, 1, 0, .ro, .none, .phys, .plain⟩,
  ⟨ERL_RESET_KEY, 1, 0, 1, 0, .wo, .none, .phys, .resetKey⟩,
  ⟨ERL_FL_SEL, 1, 0, 1, 0, .rw, .none, .phys, .plain⟩,
  ⟨ERL_FL_DATA, 8, 8, 1, 0, .ro, .none, .phys, .plain⟩,
  ⟨ERL_RCV_ADDR, 1, 0, 1, 0, .rw, .none, .phys, (.align 4)⟩,
  ⟨ERL_RCV_LEN, 1, 0, 1, 0, .rw, .none, .phys, (.rng 0 67108864)⟩,
  ⟨ERL_RCV_TARGET, 1, 0, 1, 0, .rw, .none, .phys, (.enum 4)⟩,
  ⟨ERL_RCV_GO, 1, 0, 1, 0, .wo, .none, .phys, .rcvGo⟩,
  ⟨ERL_RCV_FILE, 1, 0, 1, 0, .rw, .none, .phys, .plain⟩,
  ⟨ERL_RCV_READY, 1, 0, 1, 0, .ro, .none, .phys, .plain⟩,
  ⟨ERL_RCV_BUSY, 1, 0, 1, 0, .ro, .none, .phys, .plain⟩,
  ⟨ERL_RCV_STATUS, 1, 0, 1, 0, .ro, .none, .phys, .plain⟩,
  ⟨ERL_CNT_DEVICE, 1, 0, 1, 0, .ro, .none, .phys, .plain⟩]

def specsCfg : List Spec := [
  ⟨CFG_BASE_VERSION, 1, 0, 1, 0, .ro, .derived, .phys, .plain⟩,
  ⟨CFG_BASE_MODE, 1, 0, 1, 0, .ro, .derived, .phys, .plain⟩,
  ⟨CFG_BASE_DIG, 1, 0, 1, 0, .ro, .derived, .phys, .plain⟩,
  ⟨CFG_OVL_LOADED, 8, 8, 1, 0, .ro, .none, .phys, .plain⟩,
  ⟨CFG_OVL_STARTUP, 8, 8, 1, 0, .ro, .none, .phys, .plain⟩,
  ⟨CFG_OVL_VERSION, 8, 8, 1, 0, .ro, .none, .phys, .plain⟩,
  ⟨CFG_STAGE_ADDR, 1, 0, 1, 0, .rw, .none, .phys, (.align 4)⟩,
  ⟨CFG_STAGE_GO, 1, 0, 1, 0, .wo, .none, .phys, .stageGo⟩,
  ⟨CFG_STAGE_BUSY, 1, 0, 1, 0, .ro, .none, .phys, .plain⟩,
  ⟨CFG_STAGE_VALID, 1, 0, 1, 0, .ro, .none, .phys, .plain⟩,
  ⟨CFG_STAGE_STATUS, 1, 0, 1, 0, .ro, .none, .phys, .plain⟩,
  ⟨CFG_STAGE_VERSION, 1, 0, 1, 0, .ro, .none, .phys, .plain⟩,
  ⟨CFG_TBL_TYPE, 1, 0, 1, 0, .rw, .none, .phys, .plain⟩,
  ⟨CFG_TBL_ID, 1, 0, 1, 0, .rw, .none, .phys, .plain⟩,
  ⟨CFG_TBL_INDEX, 1, 0, 1, 0, .rw, .none, .phys, .plain⟩,
  ⟨CFG_TBL_DATA, 2, 8, 1, 0, .ro, .none, .phys, .plain⟩,
  ⟨CFG_APPLY_CNT, 1, 0, 1, 0, .rc, .none, .phys, .plain⟩,
  ⟨CFG_STAGE_FAIL, 1, 0, 1, 0, .rc, .none, .phys, .plain⟩,
  ⟨CFG_START_LOADED, 1, 0, 1, 0, .ro, .none, .phys, .plain⟩,
  ⟨CFG_START_FAILED, 1, 0, 1, 0, .ro, .none, .phys, .plain⟩]

def specsDma : List Spec := [
  ⟨DMA_STS_BUSY, 1, 0, 1, 0, .ro, .none, .phys, .plain⟩,
  ⟨DMA_STS_PLANNED, 1, 0, 1, 0, .ro, .none, .phys, .plain⟩,
  ⟨DMA_STS_FUNC, 1, 0, 1, 0, .ro, .none, .phys, .plain⟩,
  ⟨DMA_STS_QUEUE, 1, 0, 1, 0, .ro, .none, .phys, .plain⟩,
  ⟨DMA_STS_OP, 1, 0, 1, 0, .ro, .none, .phys, .plain⟩,
  ⟨DMA_IN_B, 1, 0, 1, 0, .rc, .none, .phys, .plain⟩,
  ⟨DMA_OUT_B, 1, 0, 1, 0, .rc, .none, .phys, .plain⟩,
  ⟨DMA_DESC_CNT, 1, 0, 1, 0, .rc, .none, .phys, .plain⟩,
  ⟨DMA_DAMAGED_CNT, 1, 0, 1, 0, .rc, .none, .phys, .plain⟩,
  ⟨DMA_STALE_CNT, 1, 0, 1, 0, .rc, .none, .phys, .plain⟩,
  ⟨DMA_UNCORR_CNT, 1, 0, 1, 0, .rc, .none, .phys, .plain⟩,
  ⟨DMA_ABORT_CNT, 1, 0, 1, 0, .rc, .none, .phys, .plain⟩,
  ⟨DMA_CMP_NAN, 1, 0, 1, 0, .rc, .none, .phys, .plain⟩,
  ⟨DMA_RAW_CNT, 1, 0, 1, 0, .rc, .none, .phys, .plain⟩]

def specsLnk : List Spec := [
  ⟨LNK_CTL_EN, 1, 0, 1, 0, .rw, .named, .phys, .lnkEn⟩,
  ⟨LNK_CTL_RETRAIN, 1, 0, 1, 0, .wo, .none, .phys, .retrain⟩,
  ⟨LNK_STS_STATE, 1, 0, 1, 0, .ro, .none, .phys, .plain⟩,
  ⟨LNK_STS_WIDTH, 1, 0, 1, 0, .ro, .none, .phys, .plain⟩,
  ⟨LNK_STS_REVERSED, 1, 0, 1, 0, .ro, .none, .phys, .plain⟩,
  ⟨LNK_STS_PEER, 1, 0, 1, 0, .ro, .none, .phys, .plain⟩,
  ⟨LNK_STS_LOWRATE, 1, 0, 1, 0, .ro, .derived, .phys, .plain⟩,
  ⟨LNK_LANES, 1, 0, 1, 0, .ro, .none, .phys, .plain⟩,
  ⟨LNK_RTT, 1, 0, 1, 0, .ro, .none, .phys, .plain⟩,
  ⟨LNK_TOPO_NX_M1, 1, 0, 1, 0, .ro, .named0, .phys, .plain⟩,
  ⟨LNK_TOPO_NY_M1, 1, 0, 1, 0, .ro, .named0, .phys, .plain⟩,
  ⟨LNK_TOPO_X, 1, 0, 1, 0, .ro, .named0, .phys, .plain⟩,
  ⟨LNK_TOPO_Y, 1, 0, 1, 0, .ro, .named0, .phys, .plain⟩,
  ⟨LNK_TOPO_RING, 1, 0, 1, 0, .ro, .derived, .phys, .plain⟩,
  ⟨LNK_FAIL_UCW, 1, 0, 1, 0, .rwt, .named, .phys, (.rng 1 65535)⟩,
  ⟨LNK_FEC_CORR, 1, 0, 1, 0, .rc, .none, .phys, .plain⟩,
  ⟨LNK_FEC_UCW, 1, 0, 1, 0, .rc, .none, .phys, .plain⟩,
  ⟨LNK_REPLAY, 1, 0, 1, 0, .rc, .none, .phys, .plain⟩,
  ⟨LNK_RETRAIN_CNT, 1, 0, 1, 0, .rc, .none, .phys, .plain⟩,
  ⟨LNK_DEGRADE_CNT, 1, 0, 1, 0, .rc, .none, .phys, .plain⟩,
  ⟨LNK_TX_FLITS, 1, 0, 1, 0, .rc, .none, .phys, .plain⟩,
  ⟨LNK_RX_FLITS, 1, 0, 1, 0, .rc, .none, .phys, .plain⟩,
  ⟨LNK_FWD_FLITS, 1, 0, 1, 0, .rc, .none, .phys, .plain⟩,
  ⟨LNK_AUTH_FAIL, 1, 0, 1, 0, .rc, .none, .phys, .plain⟩,
  ⟨LNK_RVK_DROP, 1, 0, 1, 0, .rc, .none, .phys, .plain⟩,
  ⟨LNK_DROP, 1, 0, 1, 0, .rc, .none, .phys, .plain⟩]

def specsAry : List Spec := [
  ⟨ARY_BIND_BOUND, 1, 0, 1, 0, .ro, .none, .phys, .plain⟩,
  ⟨ARY_BIND_REEL, 1, 0, 1, 0, .ro, .none, .phys, .plain⟩,
  ⟨ARY_BIND_POS, 1, 0, 1, 0, .ro, .none, .phys, .plain⟩,
  ⟨ARY_BIND_REPLICA, 1, 0, 1, 0, .ro, .none, .phys, .plain⟩,
  ⟨ARY_BIND_REPLICAS, 1, 0, 1, 0, .ro, .none, .phys, .plain⟩,
  ⟨ARY_BIND_SLOT_M1, 1, 0, 1, 0, .ro, .none, .phys, .plain⟩,
  ⟨ARY_BIND_SLOTS, 1, 0, 1, 0, .ro, .none, .phys, .plain⟩,
  ⟨ARY_BIND_HOME, 1, 0, 1, 0, .ro, .none, .phys, .plain⟩,
  ⟨ARY_STS_KIND, 1, 0, 1, 0, .ro, .none, .phys, .plain⟩,
  ⟨ARY_STS_LAYER, 1, 0, 1, 0, .ro, .none, .phys, .plain⟩,
  ⟨ARY_STS_MB, 1, 0, 1, 0, .ro, .none, .phys, .plain⟩,
  ⟨ARY_STS_WAITING, 1, 0, 1, 0, .ro, .none, .phys, .plain⟩,
  ⟨ARY_STS_RETAKE, 1, 0, 1, 0, .ro, .none, .phys, .plain⟩,
  ⟨ARY_STS_BANK, 1, 0, 1, 0, .ro, .none, .phys, .plain⟩,
  ⟨ARY_BUSY_CYC, 1, 0, 1, 0, .rc, .none, .phys, .plain⟩,
  ⟨ARY_WAIT_CYC, 1, 0, 1, 0, .rc, .none, .phys, .plain⟩,
  ⟨ARY_STREAM_B, 1, 0, 1, 0, .rc, .none, .phys, .plain⟩,
  ⟨ARY_TILE_CNT, 1, 0, 1, 0, .rc, .none, .phys, .plain⟩,
  ⟨ARY_RETAKE_CNT, 1, 0, 1, 0, .rc, .none, .phys, .plain⟩,
  ⟨ARY_CLEAR_CNT, 1, 0, 1, 0, .rc, .none, .phys, .plain⟩,
  ⟨ARY_ECC_CORR, 1, 0, 1, 0, .rc, .none, .phys, .plain⟩,
  ⟨ARY_ECC_UNCORR, 1, 0, 1, 0, .rc, .none, .phys, .plain⟩,
  ⟨ARY_SLOT_TENANT, 32, 8, 1, 0, .ro, .none, .phys, .plain⟩,
  ⟨ARY_SLOT_VALID, 32, 8, 1, 0, .ro, .none, .phys, .plain⟩]

def specsStk : List Spec := [
  ⟨STK_REF_TEMP, 1, 0, 1, 0, .rwt, .named, .phys, .refTemp⟩,
  ⟨STK_REF_WIN, 1, 0, 1, 0, .rwt, .named, .phys, .refWin⟩,
  ⟨STK_REF_STS_BAND, 1, 0, 1, 0, .ro, .none, .phys, .plain⟩,
  ⟨STK_REF_STS_TEMP, 1, 0, 1, 0, .ro, .none, .phys, .plain⟩,
  ⟨STK_REF_STS_INTERVAL, 1, 0, 1, 0, .ro, .none, .phys, .plain⟩,
  ⟨STK_ACT_TH, 1, 0, 1, 0, .rwt, .named, .phys, (.rng 256 65535)⟩,
  ⟨STK_ACT_FAW, 1, 0, 1, 0, .ro, .none, .phys, .plain⟩,
  ⟨STK_SCRUB_HOURS, 1, 0, 1, 0, .rwt, .named, .phys, (.rng 1 255)⟩,
  ⟨STK_REF_CNT, 1, 0, 1, 0, .rc, .none, .phys, .plain⟩,
  ⟨STK_TREF_CNT, 1, 0, 1, 0, .rc, .none, .phys, .plain⟩,
  ⟨STK_REF_OVER, 1, 0, 1, 0, .rc, .none, .phys, .plain⟩,
  ⟨STK_ECC_CORR, 1, 0, 1, 0, .rc, .none, .phys, .plain⟩,
  ⟨STK_ECC_UNCORR, 1, 0, 1, 0, .rc, .none, .phys, .plain⟩,
  ⟨STK_UNPROT_RD, 1, 0, 1, 0, .rc, .none, .phys, .plain⟩,
  ⟨STK_REMAP_SEL, 1, 0, 1, 0, .rw, .none, .phys, .plain⟩,
  ⟨STK_REMAP, 1, 0, 1, 0, .ro, .none, .phys, .plain⟩]

def specsAtn : List Spec := [
  ⟨ATN_STS_BUSY, 1, 0, 1, 0, .ro, .none, .phys, .plain⟩,
  ⟨ATN_STS_REEL, 1, 0, 1, 0, .ro, .none, .phys, .plain⟩,
  ⟨ATN_STS_LAYER, 1, 0, 1, 0, .ro, .none, .phys, .plain⟩,
  ⟨ATN_STS_WRITING, 1, 0, 1, 0, .ro, .none, .phys, .plain⟩,
  ⟨ATN_WALK_CNT, 1, 0, 1, 0, .rc, .none, .phys, .plain⟩,
  ⟨ATN_POS_CNT, 1, 0, 1, 0, .rc, .none, .phys, .plain⟩,
  ⟨ATN_WR_CNT, 1, 0, 1, 0, .rc, .none, .phys, .plain⟩,
  ⟨ATN_BUSY_CYC, 1, 0, 1, 0, .rc, .none, .phys, .plain⟩,
  ⟨ATN_SKIP_CNT, 1, 0, 1, 0, .rc, .none, .phys, .plain⟩,
  ⟨ATN_EMPTY_CNT, 1, 0, 1, 0, .rc, .none, .phys, .plain⟩,
  ⟨ATN_ECC_CORR, 1, 0, 1, 0, .rc, .none, .phys, .plain⟩,
  ⟨ATN_ECC_UNCORR, 1, 0, 1, 0, .rc, .none, .phys, .plain⟩]

def specsBnk : List Spec := [
  ⟨BNK_MODE_PROC, 1, 0, 1, 0, .ro, .none, .phys, .plain⟩,
  ⟨BNK_MODE_SWITCHING, 1, 0, 1, 0, .ro, .none, .phys, .plain⟩,
  ⟨BNK_READY_CH30, 1, 0, 1, 0, .ro, .none, .phys, .plain⟩,
  ⟨BNK_READY_CH31, 1, 0, 1, 0, .ro, .none, .phys, .plain⟩,
  ⟨BNK_POLL_NS, 1, 0, 1, 0, .rwt, .named, .phys, (.rng 10 255)⟩,
  ⟨BNK_ARB_MAX_AHEAD, 1, 0, 1, 0, .rwt, .named, .phys, (.rng 1 7)⟩,
  ⟨BNK_STAGE_A_ROWS, 1, 0, 1, 0, .rw, .named, .phys, .stageRows⟩,
  ⟨BNK_STAGE_B_ROWS, 1, 0, 1, 0, .rw, .named, .phys, .stageRows⟩,
  ⟨BNK_FAULT_CHAN, 1, 0, 1, 0, .ro, .none, .phys, .plain⟩,
  ⟨BNK_FAULT_BANK, 1, 0, 1, 0, .ro, .none, .phys, .plain⟩,
  ⟨BNK_FAULT_PC, 1, 0, 1, 0, .ro, .none, .phys, .plain⟩,
  ⟨BNK_FAULT_TYPE, 1, 0, 1, 0, .ro, .none, .phys, .plain⟩,
  ⟨BNK_FAULT_ROW, 1, 0, 1, 0, .ro, .none, .phys, .plain⟩,
  ⟨BNK_SWITCH_CNT, 1, 0, 1, 0, .rc, .none, .phys, .plain⟩,
  ⟨BNK_RUN_CNT, 1, 0, 1, 0, .rc, .none, .phys, .plain⟩,
  ⟨BNK_UNIT_CYC, 1, 0, 1, 0, .rc, .none, .phys, .plain⟩,
  ⟨BNK_COLL_BEATS, 1, 0, 1, 0, .rc, .none, .phys, .plain⟩,
  ⟨BNK_HOLD_CNT, 1, 0, 1, 0, .rc, .none, .phys, .plain⟩,
  ⟨BNK_PAUSE_CNT, 1, 0, 1, 0, .rc, .none, .phys, .plain⟩,
  ⟨BNK_CLEAR_CNT, 1, 0, 1, 0, .rc, .none, .phys, .plain⟩,
  ⟨BNK_FAULT_CNT, 1, 0, 1, 0, .rc, .none, .phys, .plain⟩]

def specsRgn : List Spec := [
  ⟨RGN_BOUND, 4, 8, 8, 8, .rw, .named, .phys, .rgnBound⟩,
  ⟨RGN_STS_CONVERTING, 1, 0, 1, 0, .ro, .none, .phys, .plain⟩,
  ⟨RGN_CAP_PROT, 1, 0, 1, 0, .ro, .none, .phys, .plain⟩,
  ⟨RGN_CAP_COMP, 1, 0, 1, 0, .ro, .none, .phys, .plain⟩,
  ⟨RGN_CAP_RETIRED, 1, 0, 1, 0, .ro, .none, .phys, .plain⟩,
  ⟨RGN_CAP_RETIRING, 1, 0, 1, 0, .ro, .none, .phys, .plain⟩,
  ⟨RGN_CAP_STAGING, 1, 0, 1, 0, .ro, .none, .phys, .plain⟩,
  ⟨RGN_CAP_MASK, 1, 0, 1, 0, .ro, .none, .phys, .plain⟩,
  ⟨RGN_DLY_BLOCKS, 1, 0, 1, 0, .rwt, .named, .phys, .plain⟩,
  ⟨RGN_DLY_POS_OBJ, 1, 0, 1, 0, .ro, .none, .phys, .plain⟩,
  ⟨RGN_DLY_POS_BLOCK, 1, 0, 1, 0, .ro, .none, .phys, .plain⟩,
  ⟨RGN_DLY_CHECKED, 1, 0, 1, 0, .rc, .none, .phys, .plain⟩,
  ⟨RGN_DLY_REPAIRED, 1, 0, 1, 0, .rc, .none, .phys, .plain⟩,
  ⟨RGN_DLY_FAILED, 1, 0, 1, 0, .rc, .none, .phys, .plain⟩,
  ⟨RGN_DLY_SWEEPS, 1, 0, 1, 0, .ro, .none, .phys, .plain⟩,
  ⟨RGN_MASK_USE, 1, 0, 1, 0, .ro, .none, .phys, .plain⟩,
  ⟨RGN_MASK_POOL_USED, 1, 0, 1, 0, .ro, .none, .phys, .plain⟩,
  ⟨RGN_MASK_POOL_PEAK, 1, 0, 1, 0, .rc, .none, .phys, .plain⟩]

/-- The header of every page (R431), as offsets within the page. -/
def BLK_ENABLE : Fld := ⟨0x10, 0, 1, 1⟩
def BLK_SOFT_RESET : Fld := ⟨0x10, 1, 1, 0⟩
def BLK_HALT : Fld := ⟨0x10, 2, 1, 0⟩
def BLK_RESETTING : Fld := ⟨0x18, 3, 1, 0⟩
def BLK_ERR : Fld := ⟨0x20, 0, 32, 0⟩
def BLK_ERR_MASK : Fld := ⟨0x28, 0, 32, 0⟩
def BLK_INFO_STATUS : Fld := ⟨0x30, 0, 8, 0⟩
def BLK_INFO_OFFSET : Fld := ⟨0x30, 8, 12, 0⟩
def BLK_INFO_LSB : Fld := ⟨0x30, 20, 6, 0⟩
def BLK_INFO_FUNC : Fld := ⟨0x30, 26, 5, 0⟩
def BLK_INFO_VALID : Fld := ⟨0x30, 31, 1, 0⟩
def BLK_INFO_TICK : Fld := ⟨0x30, 32, 32, 0⟩
def BLK_DISCARD : Fld := ⟨0x38, 1, 1, 0⟩

def specsHeader : List Spec := [
  ⟨BLK_ENABLE, 1, 0, 1, 0, .rw, .none, .phys, .enable⟩,
  ⟨BLK_SOFT_RESET, 1, 0, 1, 0, .wo, .none, .phys, .softReset⟩,
  ⟨BLK_HALT, 1, 0, 1, 0, .rw, .none, .phys, .haltAtTick⟩,
  ⟨BLK_RESETTING, 1, 0, 1, 0, .ro, .none, .phys, .plain⟩,
  ⟨BLK_ERR, 1, 0, 1, 0, .w1c, .none, .own, .blkErr⟩,
  ⟨BLK_ERR_MASK, 1, 0, 1, 0, .rw, .named, .own, .plain⟩,
  ⟨BLK_INFO_STATUS, 1, 0, 1, 0, .ro, .none, .own, .plain⟩,
  ⟨BLK_INFO_OFFSET, 1, 0, 1, 0, .ro, .none, .own, .plain⟩,
  ⟨BLK_INFO_LSB, 1, 0, 1, 0, .ro, .none, .own, .plain⟩,
  ⟨BLK_INFO_FUNC, 1, 0, 1, 0, .ro, .none, .own, .plain⟩,
  ⟨BLK_INFO_VALID, 1, 0, 1, 0, .ro, .none, .own, .plain⟩,
  ⟨BLK_INFO_TICK, 1, 0, 1, 0, .ro, .none, .own, .plain⟩,
  ⟨BLK_DISCARD, 1, 0, 1, 0, .wo, .none, .own, .discard⟩]

/-- A page of the page index (R432): base offset, TYPE, instances, its registers, whether a soft reset is accepted (R436),
and the page number of its copy in a virtual function's window (R383). -/
structure Page where
  base : Nat
  type : Nat
  insts : Nat
  specs : List Spec
  softReset : Bool
  window : Option Nat
  deriving DecidableEq, Repr

def pages : List Page := [
  ⟨0x0, 0x0001, 1, specsHub, true, none⟩,
  ⟨0x1000, 0x0002, 1, specsFrm, true, some 1⟩,
  ⟨0x2000, 0x0003, 1, specsCsh, true, none⟩,
  ⟨0x3000, 0x0004, 1, specsShl, true, some 2⟩,
  ⟨0x4000, 0x0005, 1, specsSmp, true, some 3⟩,
  ⟨0x5000, 0x0006, 1, specsUmr, true, some 4⟩,
  ⟨0x6000, 0x0007, 1, specsMig, true, none⟩,
  ⟨0x7000, 0x0008, 1, specsXpd, true, some 5⟩,
  ⟨0x8000, 0x0009, 1, specsBdm, true, none⟩,
  ⟨0x9000, 0x000A, 1, specsFlc, true, none⟩,
  ⟨0xA000, 0x000B, 1, specsPci, false, some 0⟩,
  ⟨0xB000, 0x000C, 1, specsMtp, false, none⟩,
  ⟨0xC000, 0x000D, 1, specsKey, false, none⟩,
  ⟨0xD000, 0x000E, 1, specsAge, true, none⟩,
  ⟨0xE000, 0x000F, 1, specsPwr, true, none⟩,
  ⟨0xF000, 0x0010, 1, specsTmp, true, none⟩,
  ⟨0x10000, 0x0011, 1, specsSta, true, none⟩,
  ⟨0x11000, 0x0012, 1, specsErl, false, none⟩,
  ⟨0x12000, 0x0013, 1, specsCfg, false, none⟩,
  ⟨0x20000, 0x0020, 16, specsDma, true, none⟩,
  ⟨0x30000, 0x0021, 4, specsLnk, true, none⟩,
  ⟨0x40000, 0x0022, 64, specsAry, true, none⟩,
  ⟨0x80000, 0x0023, 32, specsStk, true, none⟩,
  ⟨0xA0000, 0x0024, 32, specsAtn, true, none⟩,
  ⟨0xC0000, 0x0025, 32, specsBnk, true, none⟩,
  ⟨0xE0000, 0x0026, 32, specsRgn, true, none⟩]

end Sys2Proof.Machine
end

