-- ==== Sys2Proof/Machine/State.lean ====
section
/-! DEFINITION. The state of the block as plain data: its registers, tables, memories, queues and pins, the commands waiting for
it, and the state right after reset. -/
namespace Sys2Proof.Machine

/-! ### The frame (02) -/

/-- FRM_STS.PHASE. -/
inductive Phase where
  | none | slate | roll | wrap
  deriving DecidableEq, Repr

/-- What is open, or was open last: nothing, a frame, or a maintenance tick (R41). -/
inductive OpenKind where
  | idle | frame | maint
  deriving DecidableEq, Repr

/-- What a tick is (R24, R41). -/
inductive TickKind where
  | opening | maintenance | skipped
  deriving DecidableEq, Repr

/-- A participant as the leader holds it (R35): its device index, whether its WRAP_DONE of the open frame has arrived, and the
consecutive ticks it has missed. -/
structure Participant where
  dev : Nat
  done : Bool
  missing : Nat
  deriving DecidableEq, Repr

/-- What an accepted beacon carries (R32). -/
structure BeaconIn where
  tick : Nat
  frame : Nat
  period : Nat
  opens : Bool
  deriving DecidableEq, Repr

/-- The frame machinery that no register shows. -/
structure FrameSt where
  phase : Phase
  kind : OpenKind
  /-- Slate's closing steps (swap, snapshot, plan) have run. -/
  slateClosed : Bool
  /-- Commands applied at this Slate (R38). -/
  applied : Nat
  /-- Wrap due has passed. -/
  dueSeen : Bool
  rollDone : Bool
  /-- The frame slipped (R47). -/
  slipped : Bool
  /-- The frame failed (R53). -/
  failed : Bool
  /-- Some function's ring stopped Wrap (R52). -/
  hostWaited : Bool
  /-- Wrap of this frame has waited on a ring (R52, R277). -/
  waited : Bool
  /-- WRAP_DONE, the device's own or a participant's, came after the cutoff of the coming tick (R40). -/
  doneLate : Bool
  peerLate : Bool
  interrupted : Bool
  /-- WRAP_DONE of the latest frame or maintenance tick has been reported (R39). -/
  wrapDone : Bool
  /-- Ticks skipped by the open frame, and ticks since Wrap due. -/
  skipped : Nat
  ticksSinceDue : Nat
  /-- Consecutive ticks a full ring has stopped Wrap (R277). -/
  stallTicks : Nat
  /-- Decision of the open cutoff for the next tick, when it has been taken (R40). -/
  next : Option TickKind
  report : RollReport
  fsyncRun : Nat
  beaconRun : Nat
  /-- The beacon accepted for the coming tick (R34). -/
  beacon : Option BeaconIn
  participants : List Participant
  /-- Devices whose latest WRAP_DONE carried RUN = 1 and that join at the next opening tick (R35). -/
  joining : List Nat
  /-- A follower is a participant of its leader's frames (R36). -/
  takesPart : Bool
  /-- The leader's device index, from its latest beacon. -/
  leaderDev : Nat
  /-- Frames in a row without a WEIGHT_LATE slip (R101). -/
  calm : Nat
  /-- LEVEL and `calm` as they stood before this frame's Wrap (R101). -/
  oldLevel : Nat
  oldCalm : Nat
  /-- Place of the ring that Slate read last, function by function and ring by ring (R38). -/
  readAt : Nat
  /-- HALT_AT_TICK holds the device (R437). -/
  halted : Bool
  /-- Functions that received a record, completion or event in this frame (R278). -/
  served : List Nat
  deriving DecidableEq, Repr

/-! ### The call sheet (03, 07, 10) -/

inductive EntSt where
  | free | staged | feeding | decoding | finished | faulted | striking
  deriving DecidableEq, Repr

/-- Page-list entry (R176). -/
structure KvPage where
  obj : Nat
  psz : Nat
  absent : Bool
  rowOff : Nat
  deriving DecidableEq, Repr

/-- A command as its completion names it (R390): issuing function, ring, place in the ring, opcode, TAG, ENTRY. -/
structure CmdId where
  fn : Nat
  ring : Nat
  seq : Nat
  op : Nat
  tag : Nat
  entry : Option Nat
  deriving DecidableEq, Repr

/-- The sampler's copies (R260, R261): the parameter record, the ban list and the stop set. -/
structure SmpCopy where
  itemp : F32
  topk : Nat
  topp : F32
  minp : F32
  accept : Nat
  bans : List Nat
  stops : List Nat
  deriving DecidableEq, Repr

/-- A call-sheet entry (R58) with what the device holds beside it: the issuing function, pending drafts, AGE, the open FEED
and RELEASE, the active page list, a pending edit, the sampler's copies. -/
structure Entry where
  st : EntSt
  plSel : Nat
  reel : Nat
  tenant : Nat
  prio : Nat
  lateAct : Nat
  plCap : Nat
  outRing : Nat
  drafts : List Nat
  lateSeen : Bool
  finReason : Nat
  faultStatus : Nat
  lenCommit : Nat
  lenTent : Nat
  plPtr : Nat
  dlNext : Nat
  dlEnd : Nat
  maskState : Nat
  smpPtr : Nat
  maskTbl : Nat
  stopPtr : Nat
  stopCnt : Nat
  maxNew : Nat
  emitted : Nat
  feedLen : Nat
  feedCur : Nat
  feedPtr : Nat
  seed : W64
  userTag : Nat
  admitTick : Nat
  nextDue : Nat
  lastTick : Nat
  updCnt : Nat
  pendTok : Nat
  pendValid : Bool
  /-- Issuing function: its rings take the entry's records. -/
  fn : Nat
  age : Nat
  go : Bool
  feed : Option CmdId
  rel : Option CmdId
  /-- The active list, entries 0 to PL_COUNT - 1 (R177, R181). -/
  pages : List KvPage
  /-- A pending edit (R183): 0 none, 1 swaps at this Slate's end, 2 was applied at this Slate. -/
  edit : Nat
  /-- A late action is due at the next Slate (R86). -/
  lateDue : Bool
  smp : SmpCopy
  /-- Tokens emitted since the entry's last gather, which its PRES rows do not hold yet (R249). -/
  fresh : List Nat
  deriving DecidableEq, Repr

def smpZero : SmpCopy := ⟨0, 0, 0, 0, 0, [], []⟩

/-- A FREE entry: every field 0 (R89). -/
def entryZero : Entry :=
  { st := .free, plSel := 0, reel := 0, tenant := 0, prio := 0, lateAct := 0, plCap := 0, outRing := 0, drafts := [],
    lateSeen := false, finReason := 0, faultStatus := 0, lenCommit := 0, lenTent := 0, plPtr := 0, dlNext := 0, dlEnd := 0,
    maskState := 0, smpPtr := 0, maskTbl := 0, stopPtr := 0, stopCnt := 0, maxNew := 0, emitted := 0, feedLen := 0,
    feedCur := 0, feedPtr := 0, seed := 0, userTag := 0, admitTick := 0, nextDue := 0, lastTick := 0, updCnt := 0,
    pendTok := 0, pendValid := false, fn := 0, age := 0, go := false, feed := none, rel := none, pages := [],
    edit := 0, lateDue := false, smp := smpZero, fresh := [] }

/-! ### The committed plan (04) -/

/-- An entry as the plan carries it: its state and length at Slate, its positions of this frame (the first `pend` of which
is a pending token), its drafts, and whether it is a chunk. -/
structure Planned where
  entry : Nat
  chunk : Bool
  base : Nat
  pend : Bool
  toks : Nat
  drafts : List Nat
  eprio : Nat
  atRisk : Bool
  deriving DecidableEq, Repr

/-- Deferral record (R99, R113). -/
structure Deferral where
  entry : Nat
  reason : Nat
  eprio : Nat
  atRisk : Bool
  age : Nat
  draftsUsed : Nat
  draftsDropped : Nat
  chunk : Nat
  deriving DecidableEq, Repr

/-- A micro-batch (R103, R104): reel, tenant, its tokens as entry and position, in order. -/
structure Micro where
  reel : Nat
  tenant : Nat
  toks : List (Nat × Nat)
  deriving DecidableEq, Repr

/-- Path record of one layer of one reel (R113). -/
structure PathRec where
  layer : Nat
  reel : Nat
  projPath : Nat
  projCount : Nat
  thresh : Nat
  retakes : Nat
  expArray : Nat
  expBank : Nat
  deriving DecidableEq, Repr

/-- What the sampler decided for an entry in this frame (R78 to R80, R267): emitted tokens with whether each is an accepted
draft; the drafts accepted; the finish reason found; whether the last position tested had no allowed token; the mask state reached. -/
structure Sampled where
  entry : Nat
  toks : List (Nat × Bool)
  accepted : Nat
  reason : Nat
  maskEmpty : Bool
  maskState : Nat
  deriving DecidableEq, Repr

/-- A result-pool row given to a sampling position (R246): entry, its tenant, position, reel slot, mask table, the state gathered,
row. -/
structure PoolRow where
  entry : Nat
  tenant : Nat
  pos : Nat
  reel : Nat
  tbl : Nat
  mstate : Nat
  row : Nat
  deriving DecidableEq, Repr

/-- The committed shot list and what the Roll found for it. -/
structure Plan where
  planned : List Planned
  deferred : List Deferral
  micros : List Micro
  paths : List PathRec
  /-- (reel, stage index) of PROJ stages on BANK. -/
  bankStages : List (Nat × Nat)
  planNs : Nat
  admNs : Nat
  predNs : Nat
  level : Nat
  refreshBudget : Nat
  /-- Tenants in revocation whose strike pass 0 claims, and those whose strike does not fit (R91, R92). -/
  strikeTenants : List Nat
  strikeLate : List Nat
  /-- Rows of RELEASE strikes that pass C lets each bank zero, and blocks of the dailies that it lets each stack check (R91, R258). -/
  strikeRows : Nat
  dailyClaim : Nat
  /-- Memory channels that the shot list switches to processor mode: reel, stage, stack, mask (R107). -/
  channels : List (Nat × Nat × Nat × Nat)
  /-- Rows zeroed in the frame, by tenant, and pages appended, by tenant. -/
  zeroed : Map Nat
  added : Map Nat
  retakes : Map Nat
  switches : Nat
  dailyBlocks : Nat
  /-- Faults found for planned entries, first cause first: entry, status (R76, R193, R510). -/
  faults : List (Nat × Nat)
  /-- Entries whose fault came from their chunk's tokens, which are read before the cache (R510). -/
  tokFaults : List Nat
  /-- Positions whose attention had an empty row: entry, position (R191). -/
  empties : List (Nat × Nat)
  sampled : List Sampled
  pool : List PoolRow
  /-- Blocks that the dailies have checked in the frame, by stack. -/
  daily : Map Nat
  /-- Refresh commands that each bank of a stack claims (R253), by stack, and those issued in Roll, by bank key. -/
  refClaim : Map Nat
  refreshed : Map Nat
  deriving DecidableEq, Repr

def planZero : Plan :=
  { planned := [], deferred := [], micros := [], paths := [], bankStages := [], planNs := 0, admNs := 0, predNs := 0,
    level := 0, refreshBudget := 0, strikeTenants := [], strikeLate := [], strikeRows := 0, dailyClaim := 0, channels := [], zeroed := [],
    added := [], retakes := [], switches := 0,
    dailyBlocks := 0, faults := [], tokFaults := [], empties := [], sampled := [], pool := [], daily := [], refClaim := [],
    refreshed := [] }

/-! ### Rings, events and what leaves the device (10, 15, 19) -/

/-- A write pending in a page's shadow (R43): function, page base, register address, field, value. -/
structure PendWrite where
  fn : Nat
  page : Nat
  fld : Fld
  tag : Tag
  value : Nat
  deriving DecidableEq, Repr

/-- An event record before it is written (R390). -/
structure Event where
  kind : Nat
  status : Nat
  tag : Nat
  arg0 : Nat
  arg1 : Nat
  deriving DecidableEq, Repr

/-- What Wrap still has to write (R39): a token record for an output ring, an event for an event ring, the frame reports, or the
block of a STATS_SNAPSHOT. -/
inductive WrapItem where
  | token (fn ring : Nat) (lo hi : Nat)
  | event (fn : Nat) (e : Event)
  | report
  | stats (dest : Nat) (data : Bytes)
  deriving DecidableEq, Repr

/-- A command that concluded: its status before R49 and R53, the entry's USER_TAG, and whether it is a DRAFT that a failed frame
aborts (R53). -/
structure Done where
  cmd : CmdId
  status : Nat
  userTag : Nat
  drafts : Bool
  deriving DecidableEq, Repr

/-- What a DOE mailbox answers (R395, R412, R413, R396, R397). -/
inductive DoeKind where
  | discovery | measurements | report | ideKm | tdisp | tdispError | spdmError | busy
  deriving DecidableEq, Repr

/-- What leaves the device during one step. -/
inductive Msg where
  /-- A write to host memory of a function; `t`: on its selective IDE stream with the T bit set (R397). -/
  | host (fn addr : Nat) (data : Bytes) (t : Bool)
  | msix (fn vector : Nat)
  /-- Function Readiness Status message. -/
  | frs (fn : Nat)
  /-- Data that answers a register or aperture read, or a debug read. -/
  | readData (data : Bytes)
  | unsupportedRequest
  /-- A packet sent on a port. -/
  | packet (port : Nat) (p : Packet)
  /-- A flit stream is sent again from this SEQ. -/
  | replay (port seq : Nat)
  | nak (port seq : Nat)
  /-- A LINK flit that acknowledges every flit before this SEQ. -/
  | ack (port seq : Nat)
  | fsyncOut
  /-- A data object of a function's DOE mailbox. -/
  | doe (fn : Nat) (kind : DoeKind) (data : Bytes)
  | i3cAck (data : Bytes)
  | i3cNack
  | ibi (data : Nat)
  /-- JTAG data register shifted out. -/
  | jtag (data : Nat)
  /-- VOUT_COMMAND on PMBus, mV. -/
  | vout (mv : Nat)
  deriving DecidableEq, Repr

/-- A function as the host link holds it (15): Bus Master Enable, D3hot, in reset, whether its configuration space still has to answer
after a function-level reset, the latched TAILs of its submission rings, the events held, whether a hold-off runs and covers a record,
and its selective IDE stream. -/
structure FnSt where
  bme : Bool
  d3hot : Bool
  inFlr : Bool
  flrAnswer : Bool
  latched : List Nat
  hold : List Event
  holdoff : Bool
  covered : Bool
  stream : Bool
  deriving DecidableEq, Repr

def fnZero : FnSt :=
  { bme := false, d3hot := false, inFlr := false, flrAnswer := false, latched := [0, 0, 0, 0], hold := [], holdoff := false
    covered := false, stream := false }

/-- The error log (19): next SEQ, records held (R487), CORRECTED records this frame, the LOG region of flash, newest first. -/
structure ErlSt where
  seq : Nat
  hold : List Bytes
  corrected : Nat
  log : List Bytes
  deriving DecidableEq, Repr

/-! ### Unified memory (09, 11) -/

/-- OBJ_STATE (R298). -/
inductive ObjSt where
  | free | board | promoting | package | demoting | unmapping
  deriving DecidableEq, Repr

/-- Object-table entry (R289) with its stripe descriptor, its bands (the granule index of each band, in order), whether its bands
wait for a strike, and its open OBJ_UNMAP. -/
structure Obj where
  st : ObjSt
  cls : Nat
  prot : Bool
  layout : Nat
  home : Bool
  shared : Bool
  tenant : Nat
  hdim : Nat
  nps : Nat
  base : Nat
  size : Nat
  chMask : Nat
  stMask : Nat
  digestAddr : Nat
  masterAddr : Nat
  masterHost : Bool
  stripeAddr : Nat
  claims : Nat
  stripe : StripeDesc
  bands : List Nat
  unmap : Option CmdId
  /-- The migration engine's next granule in the pass that runs. -/
  pass : Nat
  /-- Blocks marked REPAIRING (R259). -/
  repairing : List Nat
  /-- Failed copies of the engine's next granule (R339). -/
  failures : Nat
  /-- The physical function mapped it (R302). -/
  byPhys : Bool
  deriving DecidableEq, Repr

def stripeZero : StripeDesc := ⟨0, 0, 0, 0, [], [], false⟩

def objZero : Obj :=
  { st := .free, cls := 0, prot := false, layout := 0, home := false, shared := false, tenant := 0, hdim := 0, nps := 0,
    base := 0, size := 0, chMask := 0, stMask := 0, digestAddr := 0, masterAddr := 0, masterHost := false, stripeAddr := 0,
    claims := 0, stripe := stripeZero, bands := [], unmap := none, pass := 0, repairing := [], failures := 0,
    byPhys := false }

/-- LOC of a translation entry (R287). -/
inductive Loc where
  | none | stack | board
  deriving DecidableEq, Repr

/-- Translation entry (R287). -/
structure XEnt where
  loc : Loc
  bcopy : Bool
  dirty : Bool
  copying : Bool
  obj : Nat
  sg : Nat
  bg : Nat
  deriving DecidableEq, Repr

def xentZero : XEnt := ⟨.none, false, false, false, 0, 0, 0⟩

/-- What a stack granule is beside free (R227, R233, R244). -/
inductive GranSt where
  | free | retiring | retired | mask | maskRetiring
  deriving DecidableEq, Repr

/-- Whose storage a strike zeroes. -/
inductive StrikeOwner where
  | entry (e : Nat)
  | pages (e tenant : Nat)
  | object (o : Nat)
  | bands (o : Nat) (gs : List Nat)
  | granule (bank g : Nat)
  | pool
  deriving DecidableEq, Repr

/-- A strike (R89, R185, R295, R299, R259): the stack rows still to be zeroed, as (bank key, first row, rows) runs in order, the KV
runs it keeps out of the pool as (object, first unit, units), whether it is a revocation's, and the rows whose ZERO a memory
channel in processor mode holds (R213, R241), as (bank key, row). -/
structure Strike where
  owner : StrikeOwner
  tenant : Nat
  rows : List (Nat × Nat × Nat)
  runs : List (Nat × Nat × Nat)
  revoke : Bool
  held : List (Nat × Nat) := []
  deriving DecidableEq, Repr

/-- A copy that a migration engine runs (R299): object, its granule, whether it is a promotion, whether a read of the source met an
uncorrectable error, and the reads that were corrected. -/
structure MigRun where
  obj : Nat
  gran : Nat
  up : Bool
  ue : Bool
  corr : Nat
  deriving DecidableEq, Repr

/-! ### Reels and stages (05, 06, 07, 09, 10) -/

/-- Stage record (R123). -/
structure Stage where
  kind : Nat
  layer : Nat
  pos : Nat
  bankOk : Bool
  streamed : Bool
  codeW : Nat
  sub : Nat
  experts : Nat
  topk : Nat
  inDim : Nat
  outDim : Nat
  obj : Nat
  wAddr : Nat
  cbAddr : Nat
  progAddr : Nat
  calAddr : Nat
  kparam : Nat
  wBytes : Nat
  costIdx : Nat
  deriving DecidableEq, Repr

/-- Binding record (R124). -/
structure Binding where
  replicas : Nat
  dieMask : Nat
  slotM1 : Nat
  deriving DecidableEq, Repr

/-- ATTN parameter record (R171). -/
structure AttnP where
  hdim : Nat
  kvHeads : Nat
  qGroup : Nat
  kvFmt : Nat
  split : Nat
  qkScale : F32
  window : Nat
  nsink : Nat
  pBi : Nat
  deriving DecidableEq, Repr

def attnZero : AttnP := ⟨0, 0, 0, 0, 0, 0, 0, 0, 0⟩

/-- A mask table of a reel (R242, R243). -/
structure MaskTable where
  addr : Nat
  states : Nat
  terminal : Nat
  presence : Bool
  index : Nat
  deriving DecidableEq, Repr

/-- Stage cost record of a reel (R452): tiles of the busiest replica, the stream-share term, fixed array clocks of a wave, post-unit clocks of a
token; bank-unit clocks of a run, of an A8 token and of a token of a wide run; the expert bounds as (M, H, hub clocks). -/
structure StageCost where
  tiles : Nat
  streamClk : Nat
  fixArray : Nat
  post : Nat
  bankFix : Nat
  bankTok : Nat
  bankWide : Nat
  bounds : List (Nat × Nat × Nat)
  deriving DecidableEq, Repr

def stageCostZero : StageCost := ⟨0, 0, 0, 0, 0, 0, 0, []⟩

/-- Whether a reel slot is empty, being loaded, resident or being unloaded (R512). -/
inductive ReelSt where
  | empty | loading | resident | unloading
  deriving DecidableEq, Repr

/-- Absmax record of a stage (R168). -/
structure Amax where
  amax : F32
  group : Nat
  amax2 : F32
  exp2 : Nat
  wide : Nat
  clamp : Nat
  nan : Nat
  mb : Nat
  deriving DecidableEq, Repr

def amaxZero : Amax := ⟨0, 0, 0, 0, 0, 0, 0, 0⟩

/-- A reel slot. -/
structure Reel where
  st : ReelSt
  addr : Nat
  cmd : Option CmdId
  /-- The work of the open command is done, with its outcome (R512). -/
  ready : Option Nat
  vocab : Nat
  waveM1 : Nat
  flightM1 : Nat
  home : Nat
  stages : List Stage
  binds : List Binding
  masks : List MaskTable
  /-- ATTN parameters and EXPERT inner sizes by stage-plan index (R172, R513). -/
  attn : Map AttnP
  inner : Map Nat
  /-- Stage cost records, by stage-plan index (R452). -/
  costs : List StageCost
  costAddr : Nat
  expbAddr : Nat
  expbCnt : Nat
  /-- Objects whose claim bit the load set (R294). -/
  claimed : List Nat
  /-- Arrays bound: array, position, replica (R126). -/
  arrays : List (Nat × Nat × Nat)
  /-- The binding takes effect at the next opening tick (R126). -/
  bindDue : Bool
  digest : BitVec 384
  amax : Map Amax
  /-- Frame at which the absmax interval began, and the closed interval that waits to be written: records, first and last frame (R169). -/
  intervalFirst : Nat
  closed : Option (Map Amax × Nat × Nat)
  deriving DecidableEq, Repr

def reelZero : Reel :=
  { st := .empty, addr := 0, cmd := none, ready := none, vocab := 0, waveM1 := 0, flightM1 := 0, home := 0, stages := [], binds := [],
    masks := [], attn := [], inner := [], costs := [], costAddr := 0, expbAddr := 0, expbCnt := 0, claimed := [], arrays := [],
    bindDue := false, digest := 0, amax := [],
    intervalFirst := 0, closed := none }

/-- Query rows' partial result of one lane (R188). -/
structure Part where
  m : F32
  l : F32
  acc : List F32
  deriving DecidableEq, Repr

/-! ### Bank units (08) -/

/-- A bank unit (R194): its registers, table, row buffers (byte 1024k + b of RBk), code store, width and status; its program counter, the
clocks of its run and the REP that repeats (first instruction, instructions, passes left); whether it runs, has been stopped by a fault of
its run, or stands at COLLECT (the byte that it offers from); and what the switch to processor mode latched for it: reel slot and stage,
run parameters, window, watchdog. A row operation is complete when its instruction is. -/
structure UnitSt where
  v : Map (List W16)
  s : Map W32
  lut : Map W16
  rb : Memory
  code : Map W32
  w : Nat
  amax : F32
  clamp : Nat
  nan : Nat
  wide : Bool
  pc : Nat
  clocks : Nat
  rep : Option (Nat × Nat × Nat)
  running : Bool
  dead : Bool
  offered : Option Nat
  reel : Nat
  stage : Nat
  expert : Nat
  p0 : Bool
  p1 : Bool
  out0 : Nat
  out1 : Nat
  n : Nat
  wideRun : Bool
  unit : Nat
  phase : Nat
  collected : Nat
  limit : Nat
  winBase : Nat
  winRows : Nat
  /-- The program in the code store: its reel's digest and its address (R208). -/
  prog : Option (BitVec 384 × Nat)
  deriving DecidableEq, Repr

/-- A unit that has run nothing. W has no stated reset value: 2 (log entry 35). -/
def unitZero : UnitSt :=
  { v := [], s := [], lut := [], rb := [], code := [], w := 2, amax := 0, clamp := 0, nan := 0, wide := false, pc := 0, clocks := 0
    rep := none, running := false, dead := false, offered := none, reel := 0, stage := 0, expert := 0, p0 := false, p1 := false
    out0 := 0, out1 := 0, n := 0, wideRun := false, unit := 0, phase := 0, collected := 0, limit := 0, winBase := 0, winRows := 0
    prog := none }

/-- A run of a stage's bank program (R209, R210): reel slot, stage, expert and micro-batch; its tokens in order, each with the place of
the run's output in the stage's output of the token; whether its phase-0 input is wide; the tokens of earlier sub-runs, those of the
sub-run whose input is in area A, and the inputs of the sub-runs to come. -/
structure BankRun where
  reel : Nat
  stage : Nat
  expert : Nat
  mb : Nat
  toks : List ((Nat × Nat) × Nat)
  wide : Bool
  first : Nat
  count : Nat
  left : List (List (List Int))
  deriving DecidableEq, Repr

/-- The staging rows of a bank (R211): their tenant tag, and the rows of the bank written since it was set. -/
structure Staging where
  tag : Option Nat
  rows : List Nat
  deriving DecidableEq, Repr

def stagingZero : Staging := ⟨none, []⟩

/-- The collector of a stack (R220 to R224): its inbox, the banks whose units stand at COLLECT in the order in which they reached
it, and whether BNK_FAULT_INFO holds a fault. -/
structure CollSt where
  inbox : Memory
  ready : List Nat
  faulted : Bool
  deriving DecidableEq, Repr

def collZero : CollSt := ⟨[], [], false⟩

/-! ### The work of a Roll (05) -/

/-- How far the stages of a frame have come: stages run, as (reel slot, stage, micro-batch); ATTN stages whose keys and values have been
written (R171); the micro-batch that each slot of an array holds, by array * 64 + slot (R136, R137); the reel slot and stage whose tiles
fill the staging area of an array; the first stage that waited for weights, as (stage, reel slot) (R111). -/
structure WorkSt where
  ran : List (Nat × Nat × Nat)
  kv : List (Nat × Nat × Nat)
  slots : Map Nat
  tiles : Map (Nat × Nat)
  waited : Option (Nat × Nat)
  deriving DecidableEq, Repr

def workZero : WorkSt := ⟨[], [], [], [], none⟩

/-! ### DMA (12) -/

/-- A slot of the table cache (R326, R329). -/
structure TblSlot where
  gen : Nat
  loaded : Bool
  lens : List Nat
  deriving DecidableEq, Repr

def tblZero : TblSlot := ⟨0, false, []⟩

/-- A TABLE_LOAD that waits on its queue (R327). -/
structure TblLoad where
  cmd : CmdId
  queue : Nat
  group : Nat
  slot : Nat
  gen : Nat
  lens : List Nat
  /-- Takes effect when HEAD reaches this count. -/
  mark : Nat
  deriving DecidableEq, Repr

/-- A COPY with a peer, between its CHECK and its end (R365): whether it writes to the peer, the bytes it sends, whether the answer
to its CHECK is outstanding, the pieces it has moved as (offset, length), and what has failed so far. The engine's number is its
XFER (log entry 31). -/
structure PeerXfer where
  engine : Nat
  fn : Nat
  queue : Nat
  desc : DmaDesc
  write : Bool
  data : Bytes
  waiting : Bool
  pieces : List (Nat × Nat)
  status : Nat
  damaged : Nat
  firstBad : Option Nat
  deriving DecidableEq, Repr

/-- A peer's COPY that writes here (R365): its sender and XFER, its key slot (32 the torus key), the range that its CHECK named, the bytes
that have arrived, whether FIN has, the 64-byte units whose tag failed and the first of them. -/
structure InXfer where
  src : Nat
  xfer : Nat
  key : Nat
  base : Nat
  need : Nat
  got : Nat
  fin : Bool
  failed : Nat
  firstBad : Nat
  deriving DecidableEq, Repr

/-! ### Board memory and flash (13), links (14), trust (16) -/

def flashZero : FlashBlk := ⟨0, 0, false, none⟩

/-- A port beside its registers (R357 to R367): lanes that converged and lanes marked bad, the next SEQ to send and to receive,
packets not yet acknowledged with the SEQ of their last flit, the first unacknowledged SEQ whose replay was last requested and how
often in a row, flits sent whose credit has not returned by virtual channel. -/
structure PortSt where
  converged : Nat
  badLanes : Nat
  txSeq : Nat
  rxSeq : Nat
  unacked : List (Nat × Packet)
  asked : Nat
  askedRun : Nat
  credits : Map Nat
  deriving DecidableEq, Repr

def portZero : PortSt :=
  { converged := 0, badLanes := 0, txSeq := 0, rxSeq := 0, unacked := [], asked := 0, askedRun := 0, credits := [] }

/-- A revocation (R422 to R426): its tenant; whether TENANT_REMOVE triggered it, or a function-level reset of a function, or a
peer's REVOKE; function-level resets that joined it; the frame and the instant at which it started; whether its Slate has run,
whether its own engines and ports have drained; devices whose REVOKE_DONE is outstanding; senders that are owed one. -/
structure Revoke where
  tenant : Nat
  remove : Bool
  flr : List Nat
  peer : Bool
  startFrame : Nat
  startTick : Nat
  slateSeen : Bool
  drained : Bool
  waiting : List Nat
  asked : List Nat
  deriving DecidableEq, Repr

/-- A TENANT_CREATE that waits for the next Slate (R419). -/
structure Creation where
  tenant : Nat
  fn : Nat
  rangeBase : Nat
  rangeCount : Nat
  winBase : Nat
  winSize : Nat
  deriving DecidableEq, Repr

/-- Trust state that no register shows (16): measurement registers and the log (register, event, TICK, digest), the mailbox
command that runs, revocations in progress, the packet counter of each key (32 the torus key), whether this device drew the
torus key, and reports being signed: mailbox, nonce. -/
structure TrustSt where
  mreg : Map (BitVec 384)
  log : List (Nat × Nat × Nat × BitVec 384)
  mbxOp : Nat
  revokes : List Revoke
  creation : Option Creation
  ctr : Map Nat
  signing : Map Nat
  deriving DecidableEq, Repr

def trustZero : TrustSt :=
  { mreg := [], log := [], mbxOp := 0, revokes := [], creation := none, ctr := [], signing := [] }

/-! ### Configuration (17) -/

/-- A slot's overlay, and an overlay that a Slate accepted and the next opening tick applies (R459, R460). -/
structure OvlWait where
  cmd : CmdId
  slot : Nat
  img : Option CfgImage
  deriving DecidableEq, Repr

structure CfgSt where
  /-- Values of the base image that differ from a field's `rst`, by register key. -/
  base : Map Nat
  slots : Map CfgImage
  stored : List CfgImage
  staged : Option CfgImage
  waiting : List OvlWait
  mach : Map (List MachRec)
  curves : Map CurveRec
  costs : List CostRec
  baseMach : Map (Nat × List MachRec)
  baseCurves : Map CurveRec
  baseCosts : List CostRec
  todSet : Bool
  /-- MODE byte of the base image. -/
  baseMode : Nat
  /-- The base configuration that the recovery window wrote to flash, and the boot copies that it wrote (bit 0 A, bit 1 B). -/
  flashBase : Option CfgImage
  copies : Nat
  /-- A recovery write runs, and the base configuration that it writes (R493). -/
  rcvWriting : Bool
  rcvImage : Option CfgImage
  rcvFile : Option Bundle
  /-- Files of the REELS region by number (R345, R453). -/
  files : Map Bundle
  deriving DecidableEq, Repr

/-! ### Ageing, power, heat and pins (13, 18, 20) -/

/-- The state block of the ledger (R471): GUARD, the clock ceiling, the refresh windows of each stack as the planner has decided
them (a byte for each band, 0xFF where it has set none), the stored presets of each port, and powered time in µs up to this
power-up. -/
structure Block where
  guard : Nat
  ceiling : Nat
  wins : Map Nat
  presets : Map Nat
  powered : Nat
  deriving DecidableEq, Repr

/-- No planner window on any band. -/
def winsNone : Nat := 2 ^ 64 - 1

def blockZero : Block := ⟨0, 3300, [], [], 0⟩

/-- Ageing, power and heat beside their registers (18): the ledger's records, newest first, and its state block; the planner windows in
force; the worst reading of each monitor in the epoch (slack, oscillator shift, least eye of each port, canary margin of each bank) and
targets that have been reported exhausted; readings of sensors and rails; sums of the governor's samples since the last renewal, energy
in units of 10 µJ, calm samples in a row; slipped frames; the telemetry block and its SEQ; the I3C port; STATS_SNAPSHOTs that wait for
Wrap. -/
structure OpsSt where
  ledger : List Bytes
  block : Block
  wins : Map Nat
  slack : Option Int
  rosc : Int
  eyes : Map Nat
  canary : Map Nat
  exhausted : List Nat
  margin : Nat
  marginHost : Bool
  temps : Map Nat
  peaks : Map Nat
  rails : Map (Nat × Nat)
  sumHub : Nat
  sumArray : Nat
  sumStack : Nat
  samples : Nat
  energy : Nat
  calm : Nat
  slips : Nat
  telemetry : Bytes
  telSeq : Nat
  i3cAddr : Nat
  i3cOff : Nat
  ibiEn : Bool
  alertN : Bool
  stats : List (CmdId × Nat × Nat)
  /-- Bytes of the populated flash and of one of its blocks, from the parameter pages (R344). -/
  flashPart : Nat × Nat
  deriving DecidableEq, Repr

/-- Where start-up stands (R402): the chain runs; the boot ROM waits for a host image; that image runs and its chain goes on; a stage
failed; done. -/
inductive BootSt where
  | chain | hostWait | hostFw | stopped | done
  deriving DecidableEq, Repr

/-- The instruction of the test access port (R506, R428). -/
inductive TapInstr where
  | extest | sample | bypass | idcode | observe | data
  deriving DecidableEq, Repr

structure PinSt where
  pwrOk : Bool
  perstN : Bool
  thermTripN : Bool
  bootSel : Nat
  boot : BootSt
  tap : TapInstr
  deriving DecidableEq, Repr

/-! ### The whole state -/

structure State where
  /-- Commands that wait, first in, first out. -/
  pending : List Instr
  /-- What left the device during the latest step. -/
  sent : List Msg
  /-- Register fields that do not hold their reset value. -/
  regs : Map Nat
  /-- Pending writes of the page shadows, in the order accepted. -/
  shadow : List PendWrite
  /-- Count of free values drawn so far (the model's own, log entry 3). -/
  freeCnt : Nat
  frame : FrameSt
  entries : Map Entry
  /-- Ring commands written and not yet applied. -/
  ring : List Instr
  plan : Plan
  done : List Done
  /-- FENCEs that wait, with the command behind which each stands (R66). -/
  fences : List CmdId
  /-- Entries that ended without a token record in this frame: entry, function, ENTRY_END event (R273, R390). -/
  ended : List (Nat × Nat × Event)
  wrapQ : List WrapItem
  fns : Map FnSt
  erl : ErlSt
  objs : Map Obj
  xlat : Map XEnt
  /-- Stack granules that are not plain: key bank key * 48 + granule. -/
  grans : Map GranSt
  /-- Remaps of a bank (R288): (from, to) pairs in order. -/
  remap : Map (List (Nat × Nat))
  strikes : List Strike
  /-- Copies that the migration engines run, by engine (R299). -/
  migs : Map MigRun
  mem : Memory
  board : Memory
  /-- Board pages not in zero-state (R341). -/
  boardUsed : List Nat
  /-- Board pages whose fill is in progress (R342). -/
  boardFilling : List Nat
  boardRetired : List Nat
  /-- Board granules that failed while an object held them (R339). -/
  boardRetiring : List Nat
  reels : Map Reel
  acts : Map (List F32)
  resid : Map (List F32)
  parts : Map (List Part)
  routes : Map (List (Nat × F32))
  logits : Map (List F32)
  streamBuf : Map Nat
  /-- How far the stages of the open frame, or of the last one, have come. -/
  work : WorkSt
  /-- Runs of bank programs that have not ended (R209, R210). -/
  runs : List BankRun
  units : Map UnitSt
  /-- Tags of the staging rows, by bank key. -/
  staging : Map Staging
  colls : Map CollSt
  /-- Next refresh command of a bank within its retention window (R251), and activations of rows in the window (R255), by bank key and by
  bank key * 98304 + row. -/
  refPos : Map Nat
  actCnt : Map Nat
  /-- Granules of each mask area, by the key of its mask bank (R244). -/
  maskAreas : Map (List Nat)
  tblSlots : Map TblSlot
  tblLoads : List TblLoad
  xqLatched : Map Nat
  rrNext : Map Nat
  xfers : List PeerXfer
  inbound : List InXfer
  /-- Mode switches to shared mode that wait for the last unit of their channels (R215): a mask of memory channels by stack. -/
  switchDue : Map Nat
  /-- Accesses that a memory channel in processor mode holds (R213), and aperture accesses that wait behind one (R304), oldest first. -/
  apertureQ : List Instr
  flash : Map FlashBlk
  portSt : Map PortSt
  trust : TrustSt
  cfg : CfgSt
  ops : OpsSt
  /-- L0p width reduction that waits for the end of Wrap (R378). -/
  l0p : Option Nat
  pins : PinSt
  deriving DecidableEq, Repr

def chargesZero : Charges := ⟨0, 0, 0, 0, 0, 0⟩
def reportZero : RollReport := ⟨0, 0, 0, 0, chargesZero, 0xFFFF, 0, 0, 0, []⟩

def frameZero : FrameSt :=
  { phase := .none, kind := .idle, slateClosed := false, applied := 0, dueSeen := false, rollDone := false, slipped := false,
    failed := false, hostWaited := false, waited := false, doneLate := false, peerLate := false, interrupted := false, wrapDone := true,
    skipped := 0, ticksSinceDue := 0,
    stallTicks := 0, next := none, report := reportZero, fsyncRun := 0, beaconRun := 0, beacon := none,
    participants := [], joining := [], takesPart := false, leaderDev := 0, calm := 0, oldLevel := 0, oldCalm := 0, readAt := 0,
    halted := false, served := [] }

def cfgZero : CfgSt :=
  { base := [], slots := [], stored := [], staged := none, waiting := [], mach := [], curves := [], costs := [],
    baseMach := [], baseCurves := [], baseCosts := [], todSet := false, baseMode := 0, flashBase := none, copies := 0,
    rcvWriting := false, rcvImage := none, rcvFile := none, files := [] }

def opsZero : OpsSt :=
  { ledger := [], block := blockZero, wins := [], slack := none, rosc := 0, eyes := [], canary := [], exhausted := [], margin := 0
    marginHost := false, temps := [], peaks := [], rails := [], sumHub := 0, sumArray := 0, sumStack := 0, samples := 0, energy := 0
    calm := 0, slips := 0, telemetry := [], telSeq := 0, i3cAddr := 0, i3cOff := 0, ibiEn := false, alertN := true, stats := [],
    flashPart := (0, 0) }

/-- The device right after reset: every register at its reset value, every table empty, every memory zero (R283, R491,
R492), supplies good and PERST_N high. -/
def State.reset : State :=
  { pending := [], sent := [], regs := [], shadow := [], freeCnt := 0, frame := frameZero, entries := [], ring := [],
    plan := planZero, done := [], fences := [], ended := [], wrapQ := [], fns := [], erl := ⟨0, [], 0, []⟩, objs := [], xlat := [],
    grans := [], remap := [], strikes := [], migs := [], mem := [], board := [], boardUsed := [], boardFilling := [], boardRetired := [],
    boardRetiring := [], reels := [],
    acts := [], resid := [], parts := [], routes := [], logits := [], streamBuf := [], work := workZero, runs := [], units := [],
    staging := [], colls := [], refPos := [],
    actCnt := [], maskAreas := [], tblSlots := [], tblLoads := [], xqLatched := [], rrNext := [], xfers := [], inbound := [],
    switchDue := [], apertureQ := [],
    flash := [], portSt := [], trust := trustZero, cfg := cfgZero, ops := opsZero, l0p := none,
    pins := ⟨true, true, true, 0, .chain, .idcode⟩ }

/-- Why the block stops. -/
inductive Fault where
  /-- Raised by REFRESH on a stack whose temperature lies above band 7 of the refresh curve: R14 states that no rule binds the
  device there. Safe: the model stops where the manual says nothing. -/
  | outOfSpecification
  deriving DecidableEq, Repr

/-- Why the model gives a command no meaning. -/
inductive Refusal where
  /-- Raised by a dispatch arm whose command has no meaning yet. Safe: the model stops. -/
  | notModelled (mnemonic : String)
  deriving DecidableEq, Repr

end Sys2Proof.Machine
end

