-- ==== Sys2Proof/Machine/Ops.lean ====
section
/-! DEFINITION. The operations that every family shares: register fields, function state, what leaves the device, event records
and interrupts, and the form every command's effect takes. -/
namespace Sys2Proof.Machine

abbrev Out := Host.Outcome State Fault Refusal

/-- The clocks run: supplies good, PERST_N high, no thermal trip (R479, R503). -/
def running (s : State) : Bool := s.pins.pwrOk && s.pins.perstN && s.pins.thermTripN

/-- A command's effect: `f` on a device whose clocks run, nothing on one that stands still. The queue is not the command's. -/
def act (s : State) (f : State → State) : Out :=
  .next { (if running s then f { s with sent := [] } else { s with sent := [] }) with pending := s.pending }

/-- An effect on a device whose clocks may stand still (pins and JTAG, R503). -/
def actAlways (s : State) (f : State → State) : Out :=
  .next { f { s with sent := [] } with pending := s.pending }

/-! ### Register fields -/

/-- Element `i` of a register array with stride `stride`. -/
def fldAt (f : Fld) (i stride : Nat) : Fld := { f with addr := f.addr + i * stride }

/-- The field in the page of instance `n` of a repeated block (R432). -/
def inst (f : Fld) (n : Nat) : Fld := fldAt f n 0x1000

/-- A header field of the page whose offset is `base` (R431). -/
def hdr (f : Fld) (base : Nat) : Fld := { f with addr := base + f.addr }

def regKey (fn : Nat) (f : Fld) : Nat := (fn * 2 ^ 24 + f.addr) * 64 + f.lsb

/-- Value of a field of function `fn`'s copy; fields that only the physical function has lie under 0. -/
def rd (s : State) (fn : Nat) (f : Fld) : Nat := mapGetD s.regs (regKey fn f) f.rst

def wr (s : State) (fn : Nat) (f : Fld) (v : Nat) : State :=
  { s with regs := mapSet f.rst s.regs (regKey fn f) (v % 2 ^ f.width) }

def rd0 (s : State) (f : Fld) : Nat := rd s 0 f
def wr0 (s : State) (f : Fld) (v : Nat) : State := wr s 0 f v

def flag (s : State) (f : Fld) : Bool := rd s 0 f == 1

/-- Adds `n` to a saturating counter. -/
def bump (s : State) (fn : Nat) (f : Fld) (n : Nat) : State := wr s fn f (satAdd f.width (rd s fn f) n)
def bump0 (s : State) (f : Fld) (n : Nat) : State := bump s 0 f n

/-- Boundary of memory channel `ch` (R231); the default image holds 0 for channels 30 and 31. -/
def boundFld (st ch : Nat) : Fld :=
  { inst (fldAt RGN_BOUND (ch / 8) 8) st with lsb := 8 * (ch % 8), rst := if 30 ≤ ch then 0 else 40 }

def slotOwnFld (group slot : Nat) : Fld :=
  { fldAt XPD_SLOT_OWN (2 * group + slot / 8) 8 with lsb := 8 * (slot % 8) }

/-! ### Free values -/

/-- The next free 64-bit value (log entry 3). -/
def draw (s : State) : W64 × State := (Config.free64 s.freeCnt, { s with freeCnt := s.freeCnt + 1 })

/-! ### Functions -/

def fnOf (s : State) (fn : Nat) : FnSt := mapGetD s.fns fn fnZero
def setFn (s : State) (fn : Nat) (x : FnSt) : State := { s with fns := mapSet fnZero s.fns fn x }

/-- The host can receive writes of function `fn` (R394). -/
def canWrite (s : State) (fn : Nat) : Bool :=
  (fnOf s fn).bme && !(fnOf s fn).d3hot && !(fnOf s fn).inFlr

/-- Tenant bound to a function (R380). -/
def tenantOf (s : State) (fn : Nat) : Option Nat :=
  if rd0 s (fldAt PCI_FN_BOUND fn 8) = 1 then some (rd0 s (fldAt PCI_FN_TENANT fn 8)) else none

/-- Function a tenant is bound to. -/
def functionOf (s : State) (t : Nat) : Nat := rd0 s (fldAt KEY_SLOT_FUNC t 8)

/-! ### What leaves the device -/

def send (s : State) (m : Msg) : State := { s with sent := s.sent ++ [m] }

/-- The function's TDI is in RUN: its requests go on its selective stream with the T bit set (R397). -/
def tdiRun (s : State) (fn : Nat) : Bool := rd0 s (fldAt PCI_FN_TDISP fn 8) = 2

/-- A write to host memory of a function that can receive it (R394). -/
def hostWrite (s : State) (fn addr : Nat) (data : Bytes) : State :=
  if canWrite s fn then send s (.host fn addr data (tdiRun s fn)) else s

/-- A message vector (R393): sent, or pending while its entry is masked. -/
def vector (s : State) (fn v : Nat) : State :=
  if rd s fn (fldAt MSIX_MASK v 16) = 1 then wr s fn MSIX_PBA (setBit (rd s fn MSIX_PBA) v true)
  else if canWrite s fn then send s (.msix fn v) else s

/-- Function `fn` received something in this frame (R278). -/
def serve (s : State) (fn : Nat) : State :=
  if fn ∈ s.frame.served then s else { s with frame := { s.frame with served := s.frame.served ++ [fn] } }

/-! ### Ring counters (R274, R275) -/

/-- Records between two 32-bit counters. -/
def ringUsed (head tail : Nat) : Nat := (tail + 2 ^ 32 - head) % 2 ^ 32
def ringFull (head tail size : Nat) : Bool := 2 ^ size ≤ ringUsed head tail
/-- PHASE of record `n`. -/
def ringPhase (n size : Nat) : Nat := 1 - n / 2 ^ size % 2
def ringNext (n : Nat) : Nat := (n + 1) % 2 ^ 32

/-! ### Event records (R390 to R393) -/

def eventBytes (e : Event) (phase frame : Nat) : Bytes :=
  leBytes 8 (e.kind + phase * 2 ^ 8 + e.status * 2 ^ 16 + frame % 2 ^ 32 * 2 ^ 32) ++ leBytes 8 e.tag ++ leBytes 8 e.arg0
    ++ leBytes 8 e.arg1

/-- The event ring of `fn` takes a record: it is enabled, and the host can receive it. -/
def evrOpen (s : State) (fn : Nat) : Bool := rd s fn PCI_EVR_EN = 1 && canWrite s fn
def evrFull (s : State) (fn : Nat) : Bool :=
  ringFull (rd s fn PCI_EVR_HEAD) (rd s fn PCI_EVR_TAIL) (rd s fn PCI_EVR_SIZE)

/-- Writes an event record and advances TAIL. -/
def evrWrite (s : State) (fn : Nat) (e : Event) : State :=
  let n := rd s fn PCI_EVR_TAIL
  let k := rd s fn PCI_EVR_SIZE
  let s := hostWrite s fn (rd s fn PCI_EVR_BASE + 32 * (n % 2 ^ k)) (eventBytes e (ringPhase n k) (rd0 s FRM_FRAME))
  serve (wr s fn PCI_EVR_TAIL (ringNext n)) fn

/-- Raises the event vector, at most once per hold-off (R393). -/
def eventVector (s : State) (fn : Nat) : State :=
  if rd s fn PCI_EVT_EN = 1 then
    if (fnOf s fn).holdoff then setFn s fn { fnOf s fn with covered := true }
    else
      let s := vector s fn (rd s fn PCI_EVT_VECTOR)
      if rd s fn PCI_EVT_HOLDOFF_US = 0 then s else setFn s fn { fnOf s fn with holdoff := true }
  else s

/-- A DMA_DONE, ERROR or FLR_DONE record (R392, R394): written at once, held while the ring has no room, lost beyond 64 held,
discarded while the ring is not enabled or the host cannot receive it. -/
def postEvent (s : State) (fn : Nat) (e : Event) : State :=
  if !evrOpen s fn then bump s fn PCI_DROP 1
  else if evrFull s fn || (fnOf s fn).hold ≠ [] then
    if (fnOf s fn).hold.length < 64 then setFn s fn { fnOf s fn with hold := (fnOf s fn).hold ++ [e] }
    else bump s fn PCI_EVR_LOST 1
  else eventVector (evrWrite s fn e) fn

/-- Writes held records in order while the ring has room. -/
def flushEvents : List Event → State → Nat → State
  | [], s, fn => setFn s fn { fnOf s fn with hold := [] }
  | e :: es, s, fn =>
    if evrOpen s fn && !evrFull s fn then flushEvents es (eventVector (evrWrite s fn e) fn) fn
    else setFn s fn { fnOf s fn with hold := e :: es }

/-! ### ALERT_N (R478, R480) -/

/-- Causes of R478 that hold. -/
def alertCauses (s : State) : Nat :=
  (s.ops.temps.any (fun t => rd0 s TMP_ALERT_TEMP ≤ t.2)).toNat
    + (rd0 s PWR_LVL_A != 0 || rd0 s PWR_LVL_S != 0).toNat * 2
    + rd0 s AGE_STS_EXHAUSTED * 4
    + (flag s ERL_HELD_FRAME || flag s ERL_HELD_DEVICE).toNat * 8

/-- Brings TMP_ALERT.NOW and ALERT_N up to date. -/
def settleAlert (s : State) : State :=
  let c := alertCauses s
  let low := c &&& rd0 s TMP_ALERT_SRC ≠ 0
  let changed := c ≠ rd0 s TMP_ALERT_NOW
  let s := if s.ops.alertN && low then bump0 s TMP_ALERT_CNT 1 else s
  let s := { wr0 s TMP_ALERT_NOW c with ops := { s.ops with alertN := !low } }
  if changed && s.ops.ibiEn && s.ops.i3cAddr ≠ 0 then send s (.ibi c) else s

/-! ### Idling -/

/-- Arrays that wait for weights count a microsecond of the array clock (R111, ARY_WAIT_CYC). -/
def countWaits (s : State) : State :=
  forEach (List.range 64) s fun s a =>
    if flag s (inst ARY_STS_WAITING a) then bump0 s (inst ARY_WAIT_CYC a) (rd0 s AGE_ACLK_MHZ) else s

/-- A microsecond of the device timebase (R28, R442). -/
def idle (s : State) : State :=
  if running s then
    let s := { s with sent := [] }
    let s := wr0 s FRM_NOW (min (rd0 s FRM_NOW + 1000) (2 ^ 27 - 1))
    let s := wr0 s HUB_UPTIME (rd0 s HUB_UPTIME + 1)
    let s := match s.wrapQ with
      | .token fn _ _ _ :: _ => bump s fn SMP_WAIT_NS 1000
      | .event fn _ :: _ => bump s fn SMP_WAIT_NS 1000
      | _ => s
    let s := if s.cfg.todSet then wr0 s HUB_TOD (rd0 s HUB_TOD + 1) else s
    countWaits s
  else { s with sent := [] }

end Sys2Proof.Machine
end

