-- ==== Sys2Proof/Machine/Flags.lean ====
section
/-! DEFINITION. Error flags: the error log with its classes and held bits (R483 to R490), and the error header of the register
pages (R433, R434). -/
namespace Sys2Proof.Machine

/-! ### Status codes (R7) and error classes (R483) -/

def stOk : Nat := 0
def stDoneLate : Nat := 1
def stBadState : Nat := 2
def stBadField : Nat := 3
def stExtent : Nat := 4
def stLimit : Nat := 5
def stNoRoom : Nat := 6
def stDamaged : Nat := 7
def stStale : Nat := 8
def stKeyRevoked : Nat := 9
def stDenied : Nat := 10
def stAborted : Nat := 11
def stUncorrected : Nat := 12
def stDeferred : Nat := 13
def stSlipped : Nat := 14

def clCorrected : Nat := 0
def clSequence : Nat := 1
def clTenant : Nat := 2
def clFrame : Nat := 3
def clDevice : Nat := 4

/-- What an error says of itself (R486). -/
structure ErrInfo where
  cls : Nat
  reason : Nat
  status : Nat := 0
  type : Nat := 0
  inst : Nat := 0
  tenant : Option Nat := none
  entry : Option Nat := none
  d0 : Nat := 0
  d1 : Nat := 0
  deriving DecidableEq, Repr

/-- The 64 bytes of an error record, PHASE 0. -/
def errBytes (s : State) (e : ErrInfo) : Bytes :=
  leBytes 8 (e.cls + e.status * 2 ^ 8 + e.reason * 2 ^ 16 + s.erl.seq % 2 ^ 32 * 2 ^ 32) ++ leBytes 8 (rd0 s FRM_TICK)
    ++ leBytes 8 (rd0 s FRM_FRAME) ++ leBytes 8 (rd0 s HUB_TOD)
    ++ leBytes 8 (e.type + e.inst * 2 ^ 16 + e.tenant.getD 0 * 2 ^ 32 + e.tenant.isSome.toNat * 2 ^ 37
        + e.entry.getD 0 % 2 ^ 13 * 2 ^ 38 + e.entry.isSome.toNat * 2 ^ 51)
    ++ leBytes 8 e.d0 ++ leBytes 8 e.d1 ++ leBytes 8 0

def erlFull (s : State) : Bool := ringFull (rd0 s ERL_RING_HEAD) (rd0 s ERL_RING_TAIL) (rd0 s ERL_RING_SIZE)
def erlOpen (s : State) : Bool := flag s ERL_RING_EN && canWrite s 0

/-- Writes a record into the error-log ring with its PHASE and advances TAIL (R487). -/
def erlWrite (s : State) (b : Bytes) : State :=
  let n := rd0 s ERL_RING_TAIL
  let k := rd0 s ERL_RING_SIZE
  let b0 := leBytes 1 (leNat (b.take 1) + 8 * ringPhase n k)
  let s := hostWrite s 0 (rd0 s ERL_RING_BASE + 64 * (n % 2 ^ k)) (b0 ++ b.drop 1)
  wr0 s ERL_RING_TAIL (ringNext n)

/-- A record takes its place in the ring, in the hold, or is lost (R487). -/
def erlDeliver (s : State) (b : Bytes) : State :=
  if erlOpen s && !erlFull s && s.erl.hold = [] then erlWrite s b
  else if s.erl.hold.length < 256 then { s with erl := { s.erl with hold := s.erl.hold ++ [b] } }
  else bump0 s ERL_LOST 1

/-- Writes held records in order while the ring has room. -/
def flushErrors : List Bytes → State → State
  | [], s => { s with erl := { s.erl with hold := [] } }
  | b :: bs, s =>
    if erlOpen s && !erlFull s then flushErrors bs (erlWrite s b)
    else { s with erl := { s.erl with hold := b :: bs } }

/-- Counts an error in its class and sets the held bits (R484). -/
def countError (s : State) (e : ErrInfo) : State :=
  if e.cls = clCorrected then bump0 s ERL_CNT_CORRECTED 1
  else if e.cls = clSequence then bump0 s ERL_CNT_SEQUENCE 1
  else if e.cls = clTenant then
    let s := bump0 s ERL_CNT_TENANT 1
    match e.tenant with
    | some t => wr0 s ERL_HELD_TENANT (setBit (rd0 s ERL_HELD_TENANT) t true)
    | none => s
  else if e.cls = clFrame then wr0 (bump0 s ERL_CNT_FRAME 1) ERL_HELD_FRAME 1
  else wr0 (bump0 s ERL_CNT_DEVICE 1) ERL_HELD_DEVICE 1

/-- The ERROR events of a record (R489). -/
def errorEvents (s : State) (e : ErrInfo) : State :=
  let ev : Event := ⟨5, e.status, 0, e.cls + e.reason * 2 ^ 16, 0⟩
  let s := if e.cls ≠ clCorrected || flag s ERL_CORR_EVT then postEvent s 0 ev else s
  match e.tenant with
  | some t => if e.cls = clTenant && functionOf s t ≠ 0 then postEvent s (functionOf s t) ev else s
  | none => s

/-- Records an error: counters, held bits, the log record, its events, the flash log, ALERT_N (R483 to R490). -/
def raise (s : State) (e : ErrInfo) : State :=
  let s := countError s e
  if e.cls = clCorrected && rd0 s ERL_CORR_MAX ≤ s.erl.corrected then s
  else
    let b := errBytes s e
    let s := { s with erl := { s.erl with
      seq := (s.erl.seq + 1) % 2 ^ 32
      corrected := if e.cls = clCorrected then s.erl.corrected + 1 else s.erl.corrected
      log := if clFrame ≤ e.cls then (b :: s.erl.log).take 4096 else s.erl.log } }
    settleAlert (errorEvents (erlDeliver s b) e)

/-! ### The error header of a page -/

/-- TYPE and INSTANCE of the page at `base` as function `fn` sees it (R431, R439). -/
def pageName (fn base : Nat) : Nat × Nat :=
  match pages.find? (fun p => p.base ≤ base && base < p.base + 0x1000 * p.insts) with
  | some p => (p.type, if fn = 0 then (base - p.base) / 0x1000 else fn)
  | none => (0, 0)

/-- BLK_ERR_INFO as one word. -/
def blkInfo (s : State) (fn base : Nat) : Nat :=
  rd s fn (hdr BLK_INFO_STATUS base) + rd s fn (hdr BLK_INFO_OFFSET base) * 2 ^ 8 + rd s fn (hdr BLK_INFO_LSB base) * 2 ^ 20
    + rd s fn (hdr BLK_INFO_FUNC base) * 2 ^ 26 + rd s fn (hdr BLK_INFO_VALID base) * 2 ^ 31
    + rd s fn (hdr BLK_INFO_TICK base) * 2 ^ 32

/-- BLK_ERR_INFO takes the first event while every BLK_ERR bit is 0 (R433). -/
def capture (s : State) (fn base status off lsb : Nat) : State :=
  if rd s fn (hdr BLK_ERR base) = 0 then
    let s := wr s fn (hdr BLK_INFO_STATUS base) status
    let s := wr s fn (hdr BLK_INFO_OFFSET base) off
    let s := wr s fn (hdr BLK_INFO_LSB base) lsb
    let s := wr s fn (hdr BLK_INFO_FUNC base) fn
    let s := wr s fn (hdr BLK_INFO_VALID base) 1
    wr s fn (hdr BLK_INFO_TICK base) (rd0 s FRM_TICK)
  else s

/-- Sets a BLK_ERR bit; an unmasked bit that was 0 raises one BLK_ERR error (R433, R434). -/
def blkError (s : State) (fn base bitNo status off lsb : Nat) : State :=
  let was := bit (rd s fn (hdr BLK_ERR base)) bitNo
  let s := capture s fn base status off lsb
  let s := wr s fn (hdr BLK_ERR base) (setBit (rd s fn (hdr BLK_ERR base)) bitNo true)
  if was || bit (rd s fn (hdr BLK_ERR_MASK base)) bitNo then s
  else raise s { cls := clCorrected, reason := 7, type := (pageName fn base).1, inst := (pageName fn base).2,
                 d0 := blkInfo s fn base }

/-- A field's write is dropped with a status (R45). -/
def dropWrite (s : State) (fn base status : Nat) (f : Fld) : State :=
  blkError s fn base 0 status (f.addr - base) f.lsb

end Sys2Proof.Machine
end

