-- ==== Sys2Proof/Machine/Mem.lean ====
section
/-! DEFINITION. The unified range: where its bytes lie (R279 to R288), reading and writing them, the granules and bands that back
objects, the KV pool, and zeroing. -/
namespace Sys2Proof.Machine

/-! ### Rows of the stacks -/

/-- A bank by stack, memory channel and bank. -/
def bankKey (st ch bk : Nat) : Nat := (st * 32 + ch) * 32 + bk
def bankOf (u : BankId) : Nat := bankKey u.stack u.chan u.bank
def bankStack (key : Nat) : Nat := key / 1024
def bankChan (key : Nat) : Nat := key / 32 % 32

/-- The granule that serves references to granule `g` of a bank: every remap in the order it was made (R288). -/
def remapGran (s : State) (key g : Nat) : Nat :=
  (mapGetD s.remap key []).foldl (fun g r => if r.1 = g then r.2 else g) g

/-- Cell address of a byte of a row, the bank's remaps applied. -/
def rowAddr (s : State) (key row byte : Nat) : Nat :=
  (key * Config.rowsPerBank + remapGran s key (row / Config.rowsPerGranule) * Config.rowsPerGranule
    + row % Config.rowsPerGranule) * Config.rowBytes + byte

def rowRead (s : State) (key row : Nat) : Bytes := memReadN s.mem (rowAddr s key row 0) Config.rowBytes
def rowWrite (s : State) (key row : Nat) (bs : Bytes) : State :=
  { s with mem := memWrite s.mem (rowAddr s key row 0) (bs.take Config.rowBytes) }
def rowZero (s : State) (key row : Nat) : State :=
  { s with mem := memZero s.mem (rowAddr s key row 0) Config.rowBytes }

/-! ### Bank units and collectors -/

def unitOf (s : State) (key : Nat) : UnitSt := mapGetD s.units key unitZero
def setUnit (s : State) (key : Nat) (x : UnitSt) : State := { s with units := mapSet unitZero s.units key x }

/-- What a run leaves behind (R197): registers, LUT, row buffers and status at zero; W and the windows stay. -/
def clearUnit (x : UnitSt) : UnitSt :=
  { x with v := [], s := [], lut := [], rb := [], amax := 0, clamp := 0, nan := 0, wide := false, pc := 0, clocks := 0, rep := none
           running := false, offered := none }
def collOf (s : State) (k : Nat) : CollSt := mapGetD s.colls k collZero
def setColl (s : State) (k : Nat) (x : CollSt) : State := { s with colls := mapSet collZero s.colls k x }

def unitExists (u : BankId) : Bool := u.stack < 32 && u.chan < 32 && u.bank < 32

/-! ### Activations (R255) -/

def actKeyOf (key row : Nat) : Nat := key * Config.rowsPerBank + row

/-- One row operation activates a row. -/
def activate (s : State) (key row : Nat) : State :=
  let k := actKeyOf key row
  { s with actCnt := mapSet 0 s.actCnt k (mapGetD s.actCnt k 0 + 1) }

/-! ### Regions -/

/-- Boundary in force of a memory channel (R228). -/
def bound (s : State) (st ch : Nat) : Nat := rd0 s (boundFld st ch)

/-- A row lies in the compute region of its bank (R228). -/
def computeRow (s : State) (key row : Nat) : Bool :=
  bound s (bankStack key) (bankChan key) ≤ row / Config.rowsPerGranule

/-! ### Objects and translation -/

def objOf (s : State) (o : Nat) : Obj := mapGetD s.objs o objZero
def setObj (s : State) (o : Nat) (x : Obj) : State := { s with objs := mapSet objZero s.objs o x }
def xentOf (s : State) (k : Nat) : XEnt := mapGetD s.xlat k xentZero
def setXent (s : State) (k : Nat) (e : XEnt) : State := { s with xlat := mapSet xentZero s.xlat k e }

/-- Index of the i-th set bit of a 32-bit mask (R285). -/
def nthBit (mask i : Nat) : Nat := (setBitsOf 32 mask).getD i 0

/-- Stack, memory channel, bank, row and byte of a storage location. -/
structure PLoc where
  key : Nat
  row : Nat
  byte : Nat
  deriving DecidableEq, Repr

/-- Bits of one code by CODE_W (R123). -/
def codeWidth (cw : Nat) : Nat := if cw = 5 then 8 else cw + 2

def unitLoc (o : Obj) (u a : Nat) : PLoc :=
  match o.stripe.units[u]? with
  | some x => ⟨bankKey x.stack.toNat x.chan.toNat x.bank.toNat, 2048 * x.gran.toNat + a / 1024, a % 1024⟩
  | none => ⟨0, 0, 0⟩

def matSize (m : StripeMat) : Nat := m.o.toNat / 16 * m.g.toNat * (256 * codeWidth m.codeW.toNat)

/-- Location of a byte of a STRIPED object (R285). -/
def stripedLoc (o : Obj) (off : Nat) : PLoc :=
  let ng := o.stripe.ngran.toNat * 2 ^ 21
  let view := o.stripe.viewG.toNat * 2 ^ 21
  if view ≤ off then unitLoc o ((off - view) / ng) ((off - view) % ng)
  else
    match o.stripe.mats.find? (fun m => m.voff.toNat ≤ off && off < m.voff.toNat + matSize m) with
    | none => ⟨0, 0, 0⟩
    | some m =>
      let seg := 256 * codeWidth m.codeW.toNat
      let mo := off - m.voff.toNat
      let blk := 8 * m.g.toNat * seg
      let t := mo / blk
      let sb := if t < m.o.toNat / 128 then 8 else m.o.toNat % 128 / 16
      let g := mo % blk / (sb * seg)
      let r := mo % blk % (sb * seg)
      let sig := 8 * t + r / seg
      let spu := m.spu.toNat
      unitLoc o (m.unit0.toNat + sig / spu)
        (m.uoffKb.toNat * 1024 + (sig % spu * m.g.toNat + g) * seg + r % seg)

/-- Location of a byte of an object in the stacks (R285). -/
def stackLoc (o : Obj) (e : XEnt) (off : Nat) : PLoc :=
  if o.layout = 2 then stripedLoc o off
  else
    let nc := popcount 32 o.chMask
    let k := off / 2 ^ 21
    let portioned := o.layout = 1
    let ps := o.size / 32
    let ko := if portioned then k % ps else k
    let nb := if portioned then nc * 32 else nc * 32 * popcount 32 o.stMask
    let rb := ko % nb * 2048 + off % 2 ^ 21 / 1024
    let m := rb % nb
    let ch := nthBit o.chMask (m % nc)
    let bk := m / nc % 32
    let st := if portioned then k / ps else nthBit o.stMask (m / (32 * nc))
    ⟨bankKey st ch bk, 2048 * e.sg + rb / nb, off % 1024⟩

/-- A view byte that no matrix holds: it names no byte of the raw part (R285). -/
def viewHole (o : Obj) (off : Nat) : Bool :=
  o.layout = 2 && off < o.stripe.viewG.toNat * 2 ^ 21
    && !o.stripe.mats.any fun m => m.voff.toNat ≤ off && off < m.voff.toNat + matSize m

/-- Where a unified byte lies; `hole`: a view byte without storage (log entry 103). -/
inductive Place where
  | unmapped
  | hole
  | stack (p : PLoc)
  | board (b : Nat)
  deriving DecidableEq, Repr

def place (s : State) (addr : Nat) : Place :=
  let e := xentOf s (addr / 2 ^ 21)
  match e.loc with
  | .none => .unmapped
  | .board => .board (e.bg * 2 ^ 21 + addr % 2 ^ 21)
  | .stack =>
    let o := objOf s e.obj
    if viewHole o (addr - o.base) then .hole else .stack (stackLoc o e (addr - o.base))

def uRead (s : State) (addr : Nat) : Byte :=
  match place s addr with
  | .unmapped => 0
  | .hole => Config.viewHole addr
  | .board b => memRead s.board b
  | .stack p => memRead s.mem (rowAddr s p.key p.row p.byte)

def uReadN (s : State) (addr n : Nat) : Bytes := (upto addr n).map (uRead s)

/-- The little-endian number of `n` bytes at a unified address. -/
def uNat (s : State) (addr n : Nat) : Nat := leNat (uReadN s addr n)

/-- Page of board memory (64 KiB, R340). -/
def boardPage (b : Nat) : Nat := b / 2 ^ 16

/-- Where a board address lies: memory channel, rank, address within the rank (R338). -/
structure BoardLoc where
  chan : Nat
  rank : Nat
  addr : Nat
  deriving DecidableEq, Repr

/-- GiB of a rank of board memory. -/
def rankGib (s : State) : Nat := 16 * 2 ^ rd0 s BDM_CFG_RANK_SIZE

/-- Memory-channel address of a board address (R338). -/
def boardChanAddr (b : Nat) : Nat := b / 2 ^ 12 * 2 ^ 8 + b % 2 ^ 8

def boardLoc (s : State) (b : Nat) : BoardLoc :=
  let r := rankGib s * 2 ^ 30
  ⟨b / 2 ^ 8 % 16, boardChanAddr b / r, boardChanAddr b % r⟩

/-- A byte of board memory; the first write into a page in zero-state starts its fill (R342). -/
def boardPut (s : State) (b : Nat) (x : Byte) : State :=
  let p := boardPage b
  let s := { s with board := memWrite s.board b [x] }
  if p ∈ s.boardUsed || p ∈ s.boardFilling then s else { s with boardFilling := s.boardFilling ++ [p] }

/-- Some run of the list holds the row. -/
def rowIn (runs : List (Nat × Nat × Nat)) (key row : Nat) : Bool :=
  runs.any fun r => r.1 = key && r.2.1 ≤ row && row < r.2.1 + r.2.2

/-- A row of an object in UNMAPPING that is written after its ZERO is zeroed again before its granule becomes free (R283). -/
def restrike (s : State) (o key row : Nat) : State :=
  if (objOf s o).st ≠ .unmapping then s
  else { s with strikes := s.strikes.map fun x =>
      if x.owner = .object o && !rowIn x.rows key row then { x with rows := x.rows ++ [(key, row, 1)] } else x }

def uPut (s : State) (addr : Nat) (x : Byte) : State :=
  match place s addr with
  | .unmapped => s
  | .hole => s
  | .board b => boardPut s b x
  | .stack p =>
    let k := addr / 2 ^ 21
    restrike (setXent { s with mem := memWrite s.mem (rowAddr s p.key p.row p.byte) [x] } k { xentOf s k with dirty := true })
      (xentOf s k).obj p.key p.row

/-- Writes bytes at a unified address, each where its translation entry names (R287). -/
def uWrite : State → Nat → Bytes → State
  | s, _, [] => s
  | s, a, b :: bs => uWrite (uPut s a b) (a + 1) bs

/-- A mapped unified address lies in an object. -/
def objAt (s : State) (addr : Nat) : Option Nat :=
  let e := xentOf s (addr / 2 ^ 21)
  if e.loc = .none then none else some e.obj

/-- `n` bytes from `addr` lie inside one object. -/
def insideObj (s : State) (addr n : Nat) : Bool :=
  match objAt s addr with
  | none => false
  | some o => (objOf s o).base ≤ addr && addr + n ≤ (objOf s o).base + (objOf s o).size * 2 ^ 21

/-! ### Counters of memory traffic -/

/-- A fill completes: the whole page has been written (R342). -/
def fillDone (s : State) (p : Nat) : State :=
  if p ∈ s.boardFilling then
    let s := { s with boardFilling := s.boardFilling.filter (· ≠ p), boardUsed := s.boardUsed ++ [p] }
    bump0 (bump0 s BDM_FILL_CNT 1) BDM_WR_B 65536
  else s

/-- Offsets at which an access of `n` bytes begins a 64 B access. -/
def beats (addr n : Nat) : List Nat := (List.range n).filter fun i => (addr + i) % 64 = 0 || i = 0

/-- An access to pages whose fill is in progress waits until the fills complete (R342). -/
def awaitFills (s : State) (addr n : Nat) : State :=
  if s.boardFilling = [] then s
  else forEach (beats addr n) s fun s i =>
    match place s (addr + i) with
    | .board b => fillDone s (boardPage b)
    | _ => s

/-- Counts a read's board bytes at the pins in 64 B accesses, pages in zero-state aside, and unprotected stack reads (R236, R341). -/
def countRead (s : State) (addr n : Nat) : State :=
  forEach (beats addr n) (awaitFills s addr n) fun s i =>
    match place s (addr + i) with
    | .unmapped => s
    | .hole => s
    | .board b => if boardPage b ∈ s.boardUsed then bump0 s BDM_RD_B 64 else s
    | .stack p => if computeRow s p.key p.row then bump0 s (inst STK_UNPROT_RD (bankStack p.key)) 1 else s

/-- Counts a write's board bytes at the pins: 64 B accesses, and the whole page of a fill (R342). -/
def countWrite (s : State) (addr n : Nat) : State :=
  forEach (beats addr n) (awaitFills s addr n) fun s i =>
    match place s (addr + i) with
    | .board b => if boardPage b ∈ s.boardUsed then bump0 s BDM_WR_B 64 else s
    | _ => s

/-! ### Granules and bands -/

def granKey (key g : Nat) : Nat := key * 48 + g
def granOf (s : State) (key g : Nat) : GranSt := mapGetD s.grans (granKey key g) .free
def setGran (s : State) (key g : Nat) (x : GranSt) : State :=
  { s with grans := mapSet .free s.grans (granKey key g) x }

/-- Banks of an object's bank set (R284). -/
def bankSet (o : Obj) : List Nat :=
  (setBitsOf 32 o.stMask).flatMap fun st => (setBitsOf 32 o.chMask).flatMap fun ch => (List.range 32).map (bankKey st ch)

/-- Banks of one band: the whole set, in every stack for PORTIONED. -/
def bandBanks (o : Obj) : Nat :=
  popcount 32 o.chMask * 32 * (if o.layout = 1 then 1 else popcount 32 o.stMask)

/-- Bands that back an object: NB granules each, per portion for PORTIONED (R284). -/
def bandCount (o : Obj) : Nat := ceilDiv (if o.layout = 1 then o.size / 32 else o.size) (bandBanks o)

def unitHolds (o : Obj) (key g : Nat) : Bool :=
  o.stripe.units.any fun u =>
    bankKey u.stack.toNat u.chan.toNat u.bank.toNat = key && u.gran.toNat ≤ g && g < u.gran.toNat + o.stripe.ngran.toNat

def inSet (o : Obj) (key : Nat) : Bool := bit o.stMask (bankStack key) && bit o.chMask (bankChan key)

/-- An object's storage holds granule `g` of a bank. -/
def objHolds (o : Obj) (key g : Nat) : Bool :=
  if o.st = .free then false
  else if o.layout = 2 then unitHolds o key g
  else inSet o key && o.bands.contains g

/-- A strike still holds granule `g` of a bank. -/
def strikeHolds (s : State) (x : Strike) (key g : Nat) : Bool :=
  match x.owner with
  | .bands o gs => inSet (objOf s o) key && gs.contains g
  | .granule k h => k = key && h = g
  | _ => false

/-- A granule of a bank that something holds: an object, a strike, a mask area, or a remap's target (R283, R288). -/
def granHeld (s : State) (key g : Nat) : Bool :=
  s.objs.any (fun o => objHolds o.2 key g) || s.strikes.any (fun x => strikeHolds s x key g)
    || granOf s key g = .mask || granOf s key g = .maskRetiring || (mapGetD s.remap key []).any (fun r => r.2 = g)

/-- Granule 47 of a bank of memory channels 0 to 29 in the compute region, not retired (R230). -/
def stagingGran (s : State) (key g : Nat) : Bool :=
  g = 47 && bankChan key < 30 && bound s (bankStack key) (bankChan key) ≤ 47 && granOf s key 47 ≠ .retired

/-- A granule that an object of this protection may take (R229, R230, R232, R292). -/
def granFree (s : State) (key g : Nat) (compute : Bool) : Bool :=
  !granHeld s key g && granOf s key g = .free && !stagingGran s key g
    && (bound s (bankStack key) (bankChan key) ≤ g) = compute

/-- A band is free for an object (R292). -/
def bandFree (s : State) (o : Obj) (g : Nat) : Bool := (bankSet o).all fun key => granFree s key g o.prot

/-- The lowest free granule indices for `n` bands (R292). -/
def takeBands (s : State) (o : Obj) (n : Nat) : Option (List Nat) :=
  let free := (List.range 48).filter (bandFree s o)
  if free.length < n then none else some (free.take n)

/-! ### Board granules -/

/-- Board granules installed (R337). -/
def boardTotal (s : State) : Nat :=
  16 * (rd0 s BDM_CFG_RANKS_M1 + 1) * rankGib s * 512

def boardHeld (s : State) : List Nat := (s.xlat.filter (fun e => e.2.bcopy)).map (·.2.bg)

/-- The `n` lowest numbers from `a` on that are not in `used`, within `fuel` tries. -/
def freshNats : Nat → Nat → Nat → List Nat → List Nat
  | 0, _, _, _ => []
  | _, 0, _, _ => []
  | fuel + 1, n + 1, a, used =>
    if used.contains a then freshNats fuel (n + 1) (a + 1) used else a :: freshNats fuel n (a + 1) used

/-- The lowest free board granules for a HOME BOARD object of `n` granules. -/
def takeBoard (s : State) (n : Nat) : Option (List Nat) :=
  let used := boardHeld s ++ s.boardRetired ++ s.boardRetiring
  let got := freshNats (n + used.length) n 0 used
  if got.length = n && got.all (· < boardTotal s) then some got else none

/-- Marks the pages of a board granule zero-state (R341). -/
def boardZero (s : State) (bg : Nat) : State :=
  { s with board := memZero s.board (bg * 2 ^ 21) (2 ^ 21)
           boardUsed := s.boardUsed.filter (fun p => p / 32 ≠ bg)
           boardFilling := s.boardFilling.filter (fun p => p / 32 ≠ bg) }

/-! ### The KV pool (R296) -/

/-- Positions of a page. -/
def pageLen (p : KvPage) : Nat := 16 * 2 ^ p.psz

/-- Bytes of a slot (R174) for P positions and head dimension code HDIM. -/
def slotBytes (hdim p : Nat) : Nat := 2 * p * (64 * 2 ^ hdim) + 1024 * ceilDiv (4 * p) 1024

/-- Units of 1 KiB that a page takes in each portion of its object. -/
def pageUnits (o : Obj) (p : KvPage) : Nat := ceilDiv (o.nps * slotBytes o.hdim (pageLen p)) 1024

/-- Units of each portion of a KV object. -/
def portionUnits (o : Obj) : Nat := o.size / 32 * 2048

/-- Runs of a KV object that page lists hold or pending strikes cover: (first unit, units). -/
def kvRuns (s : State) (o : Nat) : List (Nat × Nat) :=
  s.entries.flatMap (fun e => (e.2.pages.filter (fun p => p.obj = o && !p.absent)).map
      (fun p => (p.rowOff, pageUnits (objOf s o) p)))
    ++ s.strikes.flatMap (fun x => (x.runs.filter (fun r => r.1 = o)).map (fun r => (r.2.1, r.2.2)))

def runFree (runs : List (Nat × Nat)) (a n : Nat) : Bool := runs.all fun r => a + n ≤ r.1 || r.1 + r.2 ≤ a

/-- Units of a KV object's portions that lie in granules that failed, a unit a run: every NB-th unit of a band lies in one bank
(R233, R285). -/
def retiringUnits (s : State) (o : Obj) : List (Nat × Nat) :=
  let nb := bandBanks o
  let nc := popcount 32 o.chMask
  s.grans.flatMap fun g =>
    let key := g.1 / 48
    if g.2 = .free || !inSet o key then []
    else
      let m := key % 32 * nc + popcount (bankChan key) o.chMask
      (o.bands.zipIdx.filter fun b => b.1 = g.1 % 48).flatMap fun b =>
        (List.range 2048).map fun i => (b.2 * nb * 2048 + m + nb * i, 1)

/-- A unit run in a portion touches a granule that failed: it rejoins no pool (R233). -/
def runRetiring (s : State) (o : Obj) (a n : Nat) : Bool := !runFree (retiringUnits s o) a n

/-- The lowest free run of `n` units of a KV object. -/
def lowestRun (s : State) (o n : Nat) : Option Nat :=
  let runs := kvRuns s o ++ retiringUnits s (objOf s o)
  let cands := (0 :: runs.map (fun r => r.1 + r.2)).filter fun a =>
    a + n ≤ portionUnits (objOf s o) && runFree runs a n
  cands.foldl (fun best a => match best with | none => some a | some b => some (min a b)) none

/-- A tenant's KV objects that serve pages of this shape, ascending. -/
def kvObjs (s : State) (t hdim nps : Nat) : List Nat :=
  (s.objs.filter (fun o => o.2.st ≠ .free && o.2.st ≠ .unmapping && o.2.cls = 2 && !o.2.shared && o.2.tenant = t
    && o.2.hdim = hdim && o.2.nps = nps)).map (·.1)

/-- A page of size code `psz` from the tenant's pool (R82, R296). -/
def takePage (s : State) (t hdim nps psz : Nat) : Option KvPage :=
  (kvObjs s t hdim nps).findSome? fun o =>
    let p : KvPage := ⟨o, psz, false, 0⟩
    (lowestRun s o (pageUnits (objOf s o) p)).map fun a => { p with rowOff := a }

/-- Row runs of the stacks behind a page, one unit of 1 KiB a row: (bank key, row, 1) over its portion on every stack. -/
def pageRows (s : State) (p : KvPage) : List (Nat × Nat × Nat) :=
  let o := objOf s p.obj
  (List.range 32).flatMap fun st => (List.range (pageUnits o p)).map fun i =>
    let off := (st * (o.size / 32)) * 2 ^ 21 + (p.rowOff + i) * 1024
    let l := stackLoc o (xentOf s ((o.base + off) / 2 ^ 21)) off
    (l.key, l.row, 1)

/-- Row runs of an object's stack storage: every granule it holds. -/
def objRows (o : Obj) : List (Nat × Nat × Nat) :=
  if o.layout = 2 then
    o.stripe.units.map fun u =>
      (bankKey u.stack.toNat u.chan.toNat u.bank.toNat, 2048 * u.gran.toNat, 2048 * o.stripe.ngran.toNat)
  else o.bands.flatMap fun g => (bankSet o).map fun key => (key, 2048 * g, 2048)

/-! ### Reels and entries -/

def reelOf (s : State) (r : Nat) : Reel := mapGetD s.reels r reelZero
def setReel (s : State) (r : Nat) (x : Reel) : State := { s with reels := mapSet reelZero s.reels r x }
def resident (s : State) (r : Nat) : Bool := (reelOf s r).st = .resident

/-- ATTN parameters that all ATTN stages of a reel share (R172). -/
def reelAttn (r : Reel) : AttnP := ((r.attn.head?).map (·.2)).getD attnZero

/-- Slots per page of a reel: ceil(Np / 32) (R173). -/
def reelNps (r : Reel) : Nat := ceilDiv (r.attn.length * (reelAttn r).kvHeads) 32

def entryOf (s : State) (e : Nat) : Entry := mapGetD s.entries e entryZero

/-- UPD_CNT counts on; past its last value it goes to 2, as it never returns to 0 but at a reset (R89; the model's choice, log
entry 101). -/
def nextUpd (u : Nat) : Nat := if u + 1 < 2 ^ 32 then u + 1 else 2

/-- The entry takes a new content. The first change of a Slate or of a Wrap makes UPD_CNT odd (R59). -/
def setEntry (s : State) (e : Nat) (x : Entry) : State :=
  let u := (entryOf s e).updCnt
  { s with entries := mapSet entryZero s.entries e { x with updCnt := if u % 2 = 0 then nextUpd u else u } }

/-- An update of the window ends: every odd UPD_CNT becomes even (R59). -/
def settleEntries (s : State) : State :=
  { s with entries := s.entries.map fun p =>
      (p.1, if p.2.updCnt % 2 = 1 then { p.2 with updCnt := nextUpd p.2.updCnt } else p.2) }

/-! ### Objects that a reel names (R294, R295, R512) -/

def kEmbed : Nat := 1
def kNorm : Nat := 2
def kProj : Nat := 3
def kRope : Nat := 4
def kAttn : Nat := 5
def kResid : Nat := 6
def kAct : Nat := 7
def kRoute : Nat := 8
def kExpert : Nat := 9
def kCombine : Nat := 10
def kLmhead : Nat := 11
def kSample : Nat := 12

/-- Stages that read a matrix laid out under R144 (R125). -/
def weightKind (k : Nat) : Bool := k = kEmbed || k = kProj || k = kRoute || k = kExpert || k = kLmhead

/-- Objects that a stage names: OBJ of a weight stage, and those that hold the addresses it uses (R123). -/
def stageObjs (s : State) (g : Stage) : List Nat :=
  let w := weightKind g.kind
  let par := g.kind = kAttn || g.kind = kExpert || g.kind = kNorm || g.kind = kRope
  (if w then [g.obj] else [])
    ++ ((if w then [g.wAddr, g.cbAddr] else []) ++ (if w && g.kind ≠ kEmbed then [g.calAddr] else [])
        ++ (if g.bankOk then [g.progAddr] else []) ++ (if par then [g.kparam] else [])).filterMap (objAt s)

/-- Objects that a reel's stages and its image name. -/
def reelObjs (s : State) (r : Reel) : List Nat :=
  r.stages.flatMap (stageObjs s) ++ [r.addr, r.costAddr].filterMap (objAt s) ++ (if r.expbCnt = 0 then [] else (objAt s r.expbAddr).toList)
    ++ r.masks.filterMap (fun m => objAt s m.addr)

end Sys2Proof.Machine
end

