-- ==== Sys2Proof/Machine/Mask.lean ====
section
/-! DEFINITION. Mask tables and their areas (09): the transition table and bitmaps of a table (R242, R245), where an area's rows lie
(R244), BAN and PRES rows (R249, R250), and the gather (R247). -/
namespace Sys2Proof.Machine

/-! ### The image of a table (R242) -/

/-- An entry's mask table; MASK_TBL counts from 1. -/
def maskOf (r : Reel) (tbl : Nat) : Option MaskTable := if tbl = 0 then none else r.masks[tbl - 1]?

structure MaskHead where
  states : Nat
  bitmaps : Nat
  terminal : Nat
  vocab : Nat
  edgeCnt : Nat
  stateAddr : Nat
  edgeAddr : Nat
  bmpAddr : Nat
  rsv : Bool

def maskHead (s : State) (a : Nat) : MaskHead :=
  let w0 := uNat s a 8
  let w1 := uNat s (a + 8) 8
  let w2 := uNat s (a + 16) 8
  let w3 := uNat s (a + 24) 8
  let w4 := uNat s (a + 32) 8
  { states := bits w0 0 17, bitmaps := bits w0 32 16, terminal := bits w0 48 16, vocab := bits w1 0 19
    edgeCnt := bits w1 32 25, stateAddr := bits w2 0 43, edgeAddr := bits w3 0 43, bmpAddr := bits w4 0 43
    rsv := bits w0 17 15 ≠ 0 || bits w1 19 13 ≠ 0 || w1 / 2 ^ 57 ≠ 0 || w2 / 2 ^ 43 ≠ 0 || w3 / 2 ^ 43 ≠ 0 || w4 / 2 ^ 43 ≠ 0 }

structure MaskState where
  bmp : List Nat
  rowCnt : Nat
  presMode : Nat
  next : Nat
  edgeIdx : Nat
  rsv : Bool

def maskState (s : State) (h : MaskHead) (n : Nat) : MaskState :=
  let w0 := uNat s (h.stateAddr + 16 * n) 8
  let w1 := uNat s (h.stateAddr + 16 * n + 8) 8
  { bmp := (List.range 4).map (fun i => bits w0 (16 * i) 16), rowCnt := bits w1 0 3, presMode := bits w1 3 2
    next := bits w1 16 16, edgeIdx := bits w1 32 32, rsv := bits w1 5 11 ≠ 0 }

/-- TOKEN and NEXT of an edge, and whether a reserved bit is nonzero. -/
def maskEdge (s : State) (h : MaskHead) (i : Nat) : Nat × Nat × Bool :=
  let w := uNat s (h.edgeAddr + 8 * i) 8
  (bits w 0 18, bits w 32 16, bits w 18 14 ≠ 0 || w / 2 ^ 48 ≠ 0)

/-- Edges of state `n`, as indices. -/
def stateEdges (s : State) (h : MaskHead) (n : Nat) : List Nat :=
  let a := (maskState s h n).edgeIdx
  let b := if n + 1 < h.states then (maskState s h (n + 1)).edgeIdx else h.edgeCnt
  upto a (b - a)

/-- The state after token `x` in state `n` (R245). -/
def maskNext (s : State) (m : MaskTable) (n x : Nat) : Nat :=
  let h := maskHead s m.addr
  match (stateEdges s h n).find? (fun i => (maskEdge s h i).1 = x) with
  | some i => (maskEdge s h i).2.1
  | none => (maskState s h n).next

/-- Byte address in the image of piece `k` of bitmap `b`. -/
def bmpPiece (h : MaskHead) (k b : Nat) : Nat := h.bmpAddr + 1024 * (h.bitmaps * k + b)

/-! ### Mask areas (R244) -/

def pieces (vocab : Nat) : Nat := ceilDiv vocab 8192

/-- Mask bank of mask index `i` in stack `k`. -/
def maskBank (i k : Nat) : Nat := bankKey k (30 + i / 32) (i % 32)

def maskIndex (reel tbl : Nat) : Nat := 16 * reel + tbl - 1

/-- Granules that an area with this many bitmaps needs. -/
def areaGrans (bitmaps : Nat) : Nat := ceilDiv (32784 + bitmaps) 2048

/-- The lowest compute granules of a mask bank that are neither retired nor held; none when they do not suffice. -/
def takeArea (s : State) (key bitmaps : Nat) : Option (List Nat) :=
  let n := areaGrans bitmaps
  let free := (List.range 48).filter fun g => granFree s key g true
  if free.length < n then none else some (free.take n)

/-- Row of a bank that holds row `r` of its mask area. -/
def areaRow (s : State) (key r : Nat) : Nat := (mapGetD s.maskAreas key []).getD (r / 2048) 0 * 2048 + r % 2048

def banRow (e : Nat) : Nat := 16 + e
def presRow (e : Nat) : Nat := 8208 + e
def poolRow (j : Nat) : Nat := 16400 + j
def bmpRow (b : Nat) : Nat := 32784 + b
def tempRow : Nat := 15

/-- Runs of the rows `rs` of a table's area in every stack that holds a piece. -/
def areaRuns (s : State) (reel tbl : Nat) (rs : List Nat) : List (Nat × Nat × Nat) :=
  (List.range (pieces (reelOf s reel).vocab)).flatMap fun k =>
    let key := maskBank (maskIndex reel tbl) k
    rs.map fun r => (key, areaRow s key r, 1)

/-- BAN and PRES rows of an entry, struck with its pages (R250). -/
def entryMaskRuns (s : State) (e : Nat) : List (Nat × Nat × Nat) :=
  let x := entryOf s e
  if x.maskTbl = 0 then [] else areaRuns s x.reel x.maskTbl [banRow e, presRow e]

/-- Pool rows that held a tenant's results in the last frame (R250). -/
def poolRuns (s : State) (t : Nat) : List (Nat × Nat × Nat) :=
  (s.plan.pool.filter (·.tenant = t)).flatMap fun p => areaRuns s p.reel p.tbl [poolRow p.row]

/-- Sets the bits of token ids in a row of a table's area, each in the stack of its piece. -/
def setTokens (s : State) (reel tbl row : Nat) (ids : List Nat) : State :=
  forEach ids s fun s v =>
    let key := maskBank (maskIndex reel tbl) (v / 8192)
    let a := rowAddr s key (areaRow s key row) (v % 8192 / 8)
    { s with mem := memWrite s.mem a [memRead s.mem a ||| BitVec.ofNat 8 (2 ^ (v % 8))] }

/-- The BAN row of a new entry (R249). -/
def writeBan (s : State) (e : Nat) : State :=
  let x := entryOf s e
  if x.maskTbl = 0 then s else setTokens s x.reel x.maskTbl (banRow e) (x.smp.bans.map (· % 2 ^ 18))

/-- The PRES rows of an entry take the tokens emitted since its last gather (R249). -/
def writePres (s : State) (e : Nat) : State :=
  let x := entryOf s e
  if x.maskTbl = 0 then s
  else
    let s := setTokens s x.reel x.maskTbl (presRow e) x.fresh
    { s with entries := mapSet entryZero s.entries e { x with fresh := [] } }

/-! ### The gather (R247, R248) -/

def zipBytes (f : Byte → Byte → Byte) (a b : Bytes) : Bytes := List.zipWith f a b

/-- Rows that the operations of a gather use, one list an operation: R is `r`, T1 is `t`. -/
def gatherOps (st : MaskState) (e r t : Nat) : List (List Nat) :=
  [[r, bmpRow (st.bmp.headD 0)]] ++ ((st.bmp.take st.rowCnt).drop 1).map (fun b => [r, bmpRow b]) ++ [[t, banRow e], [r, t]]
    ++ (if st.presMode = 1 then [[t, presRow e], [r, t]] else if st.presMode = 2 then [[r, presRow e]] else [])

/-- One pool row in one stack: the state's bitmaps ORed, the banned tokens removed, the presence rule applied; T1 keeps the last
complement taken. -/
def gatherPiece (s : State) (p : PoolRow) (k : Nat) : State :=
  match maskOf (reelOf s p.reel) p.tbl with
  | none => s
  | some m =>
    let key := maskBank (maskIndex p.reel p.tbl) k
    let at_ := fun r => areaRow s key r
    let row := fun r => rowRead s key (at_ r)
    let st := maskState s (maskHead s m.addr) p.mstate
    let ored := ((st.bmp.take st.rowCnt).drop 1).foldl (fun r b => zipBytes (· ||| ·) r (row (bmpRow b)))
      (row (bmpRow (st.bmp.headD 0)))
    let t := (row (banRow p.entry)).map (~~~ ·)
    let r := zipBytes (· &&& ·) ored t
    let pres := row (presRow p.entry)
    let np := pres.map (~~~ ·)
    let s := forEach (gatherOps st p.entry (poolRow p.row) tempRow).flatten s fun s r => activate s key (at_ r)
    let s := rowWrite s key (at_ tempRow) (if st.presMode = 1 then np else t)
    rowWrite s key (at_ (poolRow p.row))
      (if st.presMode = 1 then zipBytes (· &&& ·) r np else if st.presMode = 2 then zipBytes (· &&& ·) r pres else r)

/-- Token `v` is allowed in a pool row (R263). -/
def poolAllows (s : State) (p : PoolRow) (v : Nat) : Bool :=
  let key := maskBank (maskIndex p.reel p.tbl) (v / 8192)
  bit (memRead s.mem (rowAddr s key (areaRow s key (poolRow p.row)) (v % 8192 / 8))).toNat (v % 8)

end Sys2Proof.Machine
end

