-- ==== Sys2Proof/Machine/Operands.lean ====
section
/-! DEFINITION. Operand checks: the order of R13, whom a function may name (R60, R281), the key slot a command carries (R514),
and the way a ring command is taken and concluded (R38, R68, R385 to R388). -/
namespace Sys2Proof.Machine

/-- The failures of a command by the classes of R13. -/
structure Checks where
  denied : Bool := false
  key : Bool := false
  badState : Bool := false
  badField : Bool := false
  limit : Bool := false
  extent : Bool := false
  noRoom : Bool := false
  deriving DecidableEq, Repr

/-- The status of the first failure in the order of R13. -/
def refusal (c : Checks) : Option Nat :=
  if c.denied then some stDenied
  else if c.key then some stKeyRevoked
  else if c.badState then some stBadState
  else if c.badField then some stBadField
  else if c.limit then some stLimit
  else if c.extent then some stExtent
  else if c.noRoom then some stNoRoom
  else none

/-- Both sets of failures. -/
def bothChecks (a b : Checks) : Checks :=
  { denied := a.denied || b.denied, key := a.key || b.key, badState := a.badState || b.badState
    badField := a.badField || b.badField, limit := a.limit || b.limit, extent := a.extent || b.extent
    noRoom := a.noRoom || b.noRoom }

/-- A check that only one status class names. -/
def checkOf (st : Nat) (b : Bool) : Checks :=
  { denied := b && st = stDenied, key := b && st = stKeyRevoked, badState := b && st = stBadState
    badField := b && st = stBadField, limit := b && st = stLimit, extent := b && st = stExtent
    noRoom := b && st = stNoRoom }

/-! ### Key slots and modes -/

def slotState (s : State) (t : Nat) : Nat := rd0 s (fldAt KEY_SLOT_STATE t 8)

/-- The slot is REVOKING or FREE (R514). -/
def slotBad (s : State) (t : Nat) : Bool := slotState s t ≠ 1

/-- Mode in force (R454). -/
def mode (s : State) : Nat := rd0 s MTP_MODE_MODE
def confidential (s : State) : Bool := mode s = 1
def diagnostic (s : State) : Bool := mode s = 2
def recovery (s : State) : Bool := mode s = 3

def runSet (s : State) : Bool := flag s FRM_CTL_RUN
def leader (s : State) : Bool := rd0 s FRM_CFG_ROLE = 0

/-- The key slot that a command of `fn` carries, when the physical function's names `t` (R514). -/
def carried (s : State) (fn : Nat) (t : Option Nat) : Bool :=
  if fn = 0 then t.any (slotBad s) else (tenantOf s fn).any (slotBad s)

/-! ### Unified addresses (R280, R281) -/

/-- Bits [47:43] of a device address. -/
def wideBits (a : Nat) : Bool := 2 ^ 43 ≤ a

/-- What a function may name: its own tenant's object, as a source of DMA a SHARED one too, the physical function any. -/
def mayName (s : State) (fn addr : Nat) (source : Bool) : Bool :=
  if fn = 0 then true
  else match objAt s addr with
    | none => false
    | some o => (!(objOf s o).shared && some (objOf s o).tenant = tenantOf s fn) || (source && (objOf s o).shared)

/-- The failure of a range of a command or descriptor, judged by its first byte (R281). -/
def judge (s : State) (fn addr n : Nat) (source : Bool) : Checks :=
  if !mayName s fn addr source then checkOf stDenied true else checkOf stExtent (!insideObj s addr n)

/-- A byte lies in an object of tenant `t`. -/
def inTenant (s : State) (t addr : Nat) : Bool :=
  match objAt s addr with
  | none => false
  | some o => !(objOf s o).shared && (objOf s o).tenant = t

/-! ### Ring commands -/

/-- A virtual function with no tenant refuses every command (R380). -/
def unbound (s : State) (fn : Nat) : Bool := fn ≠ 0 && tenantOf s fn = none

/-- Entry outside what a virtual function may name (R60). -/
def entryDenied (s : State) (fn e : Nat) : Bool :=
  if fn = 0 then false
  else match tenantOf s fn with
    | none => true
    | some t =>
      let b := rd0 s (fldAt CSH_RANGE_BASE t 8)
      !(b ≤ e && e < b + rd0 s (fldAt CSH_RANGE_COUNT t 8))

def sqFld (f : Fld) (q : Nat) : Fld := fldAt f q 32

/-- Header of a command of the submission rings. -/
def cmdHdrOf : Instr → Option CmdHdr
  | .admitEntry h .. | .feed h .. | .draft h .. | .release h .. | .cancel h .. | .setPrio h .. | .setDeadline h ..
  | .pageEdit h .. | .fence h | .reelLoad h .. | .reelUnload h .. | .objMap h .. | .claim h .. | .unclaim h ..
  | .objUnmap h .. | .tableLoad h .. | .overlayApply h .. | .statsSnapshot h .. => some h
  | _ => none

/-- The command stands in submission ring `q` of `fn`. -/
def inRing (fn q : Nat) (c : Instr) : Bool :=
  match cmdHdrOf c with
  | some h => h.fn = fn && h.ring = q
  | none => false

/-- Place of a ring in the order of functions, then of their rings (R38). -/
def ringPlace (fn q : Nat) : Nat := fn * 4 + q

/-- Slate has come to a ring: it has read no ring behind it, and no earlier command of the ring still waits (R38). A command that the sender
brings after Slate has gone on to a later ring waits for the next Slate (DESIGN CHOICE, log entry 108). -/
def ringTurn (s : State) (fn q : Nat) : Bool := decide (s.frame.readAt ≤ ringPlace fn q) && !s.ring.any (inRing fn q)

/-- The next command of a ring lies below the latched doorbell of an enabled ring that the device may read, and it is the ring's turn
(R38, R386, R394). -/
def sqReady (s : State) (fn q : Nat) : Bool :=
  rd s fn (sqFld PCI_SQ_EN q) = 1 && canWrite s fn
    && rd s fn (sqFld PCI_SQ_HEAD q) ≠ (fnOf s fn).latched.getD q 0 && ringTurn s fn q

/-- Slate is open to commands. -/
def slateOpen (s : State) : Bool := s.frame.phase = .slate && !s.frame.slateClosed && s.frame.applied < 4096

/-- Slate reads the command: HEAD advances and PCI_CMD_CNT counts it (R385). -/
def takeCmd (s : State) (fn q : Nat) : State :=
  let s := wr s fn (sqFld PCI_SQ_HEAD q) (ringNext (rd s fn (sqFld PCI_SQ_HEAD q)))
  let s := bump s fn PCI_CMD_CNT 1
  { s with frame := { s.frame with applied := s.frame.applied + 1, readAt := ringPlace fn q } }

/-- A command as its completion will name it; its place is HEAD before it is read. -/
def cmdId (s : State) (h : CmdHdr) (op : Nat) (entry : Option Nat) : CmdId :=
  ⟨h.fn, h.ring, rd s h.fn (sqFld PCI_SQ_HEAD h.ring), op, h.tag.toNat, entry⟩

/-- The command concludes in this frame with a status (R68). -/
def conclude (s : State) (c : CmdId) (status : Nat) : State :=
  let tag := match c.entry with | some e => (entryOf s e).userTag | none => 0
  { s with done := s.done ++ [⟨c, status, tag, false⟩] }

/-- A DRAFT whose drafts wait for this frame concludes (R53, R68). -/
def concludeDraft (s : State) (c : CmdId) (e : Nat) : State :=
  { s with done := s.done ++ [⟨c, stOk, (entryOf s e).userTag, true⟩] }

/-- The tick number of the Slate that runs; a maintenance Slate counts as opened by its own tick (R41). -/
def slateTick (s : State) : Nat := if s.frame.kind = .maint then rd0 s FRM_TICK else rd0 s OPEN_TICK

/-- A command of a ring: applied at once in a Slate that may read it, otherwise it waits in its ring (R38). -/
def submit (s : State) (h : CmdHdr) (c : Instr) (op : Nat) (entry : Option Nat) (apply : State → CmdId → State) : State :=
  if slateOpen s && sqReady s h.fn h.ring then
    let id := cmdId s h op entry
    apply (takeCmd s h.fn h.ring) id
  else { s with ring := s.ring ++ [c] }

/-- A refusal concludes the command and changes nothing else (R11); otherwise `f` takes effect. -/
def guarded (s : State) (c : CmdId) (k : Checks) (f : State → State) : State :=
  match refusal k with
  | some st => conclude s c st
  | none => f s

end Sys2Proof.Machine
end

