-- ==== Sys2Proof/Machine/Ecc.lean ====
section
/-! DEFINITION. Errors of stack rows (09): corrected and uncorrectable reads of protected rows (R235), and granules that are marked
RETIRING (R233). -/
namespace Sys2Proof.Machine

/-- Reasons of CORRECTED events (R486). -/
def rsCorrEcc : Nat := 1
def rsPatrolUe : Nat := 2
def rsDailyRepair : Nat := 3
def rsDailyRetire : Nat := 4

/-- Stack, memory channel, bank and granule of a bank's row as DETAIL0 shows them (R486). -/
def granDetail (key g : Nat) : Nat := bankStack key + bankChan key * 2 ^ 5 + key % 32 * 2 ^ 10 + g * 2 ^ 15

/-- `n` CORRECTED events of reason CORR_ECC of a block that is no stack. -/
def correctedEcc (s : State) (type inst n : Nat) : State :=
  forEach (List.range n) s fun s _ => raise s { cls := clCorrected, reason := rsCorrEcc, type := type, inst := inst }

/-- RETIRING granules that hold nothing become retired (R233). -/
def settleRetiring (s : State) : State :=
  forEach s.grans s fun s g =>
    if g.2 = .retiring && !granHeld s (g.1 / 48) (g.1 % 48) then setGran s (g.1 / 48) (g.1 % 48) .retired else s

/-- RETIRING board granules that no object holds become retired (R339). -/
def settleBoard (s : State) : State :=
  let held := boardHeld s
  let gone := s.boardRetiring.filter fun b => !held.contains b
  let s := { s with boardRetiring := s.boardRetiring.filter held.contains, boardRetired := s.boardRetired ++ gone }
  wr0 (wr0 s BDM_CAP_RETIRED s.boardRetired.length) BDM_CAP_GRANULES (boardTotal s - s.boardRetired.length)

/-- A corrected read of a row (R235). -/
def correctedAt (s : State) (key row : Nat) : State :=
  raise (bump0 s (inst STK_ECC_CORR (bankStack key)) 1)
    { cls := clCorrected, reason := rsCorrEcc, type := 0x23, inst := bankStack key, d0 := granDetail key (row / Config.rowsPerGranule) }

/-- `n` corrected reads of protected rows of a stack (R235), at places that the command does not name: their DETAIL0 is a free value
(log entry 3). -/
def correctedReads (s : State) (stack n : Nat) : State :=
  forEach (List.range n) s fun s _ =>
    let (v, s) := draw s
    correctedAt s (bankKey stack (v.toNat % 32) (v.toNat / 32 % 32)) (v.toNat / 1024 % Config.rowsPerBank)

/-- A granule that failed at run time (R233). -/
def markRetiring (s : State) (key g : Nat) : State :=
  match granOf s key g with
  | .free => settleRetiring (setGran s key g .retiring)
  | .mask => setGran s key g .maskRetiring
  | _ => s

/-- An uncorrectable read of a protected row (R235). -/
def uncorrectableRead (s : State) (key row : Nat) : State :=
  if computeRow s key row then s
  else markRetiring (bump0 s (inst STK_ECC_UNCORR (bankStack key)) 1) key (remapGran s key (row / Config.rowsPerGranule))

/-- A read of board memory that link ECC cannot correct (R339): the granule is RETIRING, and retired when no object holds it. -/
def boardUncorr (s : State) (bg : Nat) : State :=
  let s := bump0 s BDM_LECC_UNCORR 1
  if s.boardRetiring.contains bg || s.boardRetired.contains bg then s
  else settleBoard { s with boardRetiring := s.boardRetiring ++ [bg] }

/-- An uncorrectable read at a unified address; compute rows report none (R236). -/
def readError (s : State) (addr : Nat) : State :=
  match place s addr with
  | .unmapped => s
  | .hole => s
  | .board b => boardUncorr s (b / 2 ^ 21)
  | .stack p => uncorrectableRead s p.key p.row

/-- A read at a unified address can report an error: a board page that is not in zero-state (R341), or a protected row (R236). -/
def canFail (s : State) (addr : Nat) : Bool :=
  match place s addr with
  | .unmapped => false
  | .hole => false
  | .board b => s.boardUsed.contains (boardPage b) || s.boardFilling.contains (boardPage b)
  | .stack p => !computeRow s p.key p.row

/-- A corrected read at a unified address: by link ECC of board memory (R339), or by the code of a protected row (R235). -/
def readCorrected (s : State) (addr : Nat) : State :=
  if !canFail s addr then s
  else
    match place s addr with
    | .board _ => bump0 s BDM_LECC_CORR 1
    | .stack p => correctedAt s p.key p.row
    | _ => s

/-! ### Accesses that a memory channel in processor mode holds (R213) -/

/-- A memory channel in processor mode holds accesses. -/
def chanHeld (s : State) (key : Nat) : Bool := bankChan key < 30 && bit (rd0 s (inst BNK_MODE_PROC (bankStack key))) (bankChan key)

/-- Bank of a byte of the unified range, when it lies in the stacks. -/
def byteBank (s : State) (addr : Nat) : Option Nat :=
  match place s addr with
  | .stack p => some p.key
  | _ => none

/-- The first bank that holds an access to a range. -/
def rangeHeld (s : State) (addr n : Nat) : Option Nat :=
  (beats addr n).findSome? fun i => (byteBank s (addr + i)).filter (chanHeld s)

/-- An access waits, and BNK_HOLD_CNT counts it. -/
def hold (s : State) (key : Nat) (c : Instr) : State :=
  let s := bump0 s (inst BNK_HOLD_CNT (bankStack key)) 1
  { s with apertureQ := s.apertureQ ++ [c] }

/-! ### Blocks under repair (R259) -/

/-- The block lies in this stack. -/
def blockIn (s : State) (o : Obj) (i k : Nat) : Bool := (byteBank s (o.base + 65536 * i)).any fun key => bankStack key = k

/-- Blocks of this stack's objects are under repair. -/
def repairsOpen (s : State) (k : Nat) : Bool := s.objs.any fun o => o.2.repairing.any fun i => blockIn s o.2 i k

/-- The engine of group `k mod 16` carries the reload of a stack's blocks, a transfer of the device's own (R259; log entry 105): PLANNED and
BUSY say so. -/
def markPlanned (s : State) (k : Nat) : State :=
  let e := k % 16
  let own := repairsOpen s e || repairsOpen s (e + 16)
  let s := wr0 s (inst DMA_STS_PLANNED e) own.toNat
  wr0 s (inst DMA_STS_BUSY e) (own || rd0 s (inst DMA_STS_OP e) ≠ 0).toNat

/-- The unit of a bank key. -/
def keyBank (key : Nat) : BankId := ⟨bankStack key, bankChan key, key % 32⟩

end Sys2Proof.Machine
end

