-- ==== Sys2Proof/Machine/Float.lean ====
section
/-! DEFINITION. Arithmetic of the number formats (06): FP32 with the exceptions of R141, FP16, the integer codes, the defined functions of
R158, QUANT (R151), and the key-value encodings (R160 to R162). -/
namespace Sys2Proof.Machine

/-! ### FP32 values -/

/-- An FP32 operand as R141 reads it: a NaN, an infinity, or `m * 2 ^ e` with a sign; a subnormal is a zero. -/
inductive Fp where
  | nan
  | inf (neg : Bool)
  | fin (neg : Bool) (m : Nat) (e : Int)
  deriving DecidableEq, Repr

def f32Nan : F32 := 0x7FC00000
def f32Inf (neg : Bool) : F32 := if neg then 0xFF800000 else 0x7F800000
def f32Zero (neg : Bool) : F32 := if neg then 0x80000000 else 0
def f32One : F32 := 0x3F800000

def unpackF (x : F32) : Fp :=
  let n := x.toNat
  let neg := bit n 31
  let e := bits n 23 8
  let f := bits n 0 23
  if e = 255 then (if f = 0 then .inf neg else .nan)
  else if e = 0 then .fin neg 0 0
  else .fin neg (2 ^ 23 + f) (e - 150)

/-- `m / 2 ^ k` rounded to nearest, ties to even. -/
def rneShift (m k : Nat) : Nat :=
  let q := m / 2 ^ k
  let r := m % 2 ^ k
  if k = 0 || 2 * r < 2 ^ k then q else if 2 ^ k < 2 * r then q + 1 else q + q % 2

/-- `m * 2 ^ e` as an FP32 result: 24 significant bits as if the exponent were unbounded, then judged (R141). -/
def packF (neg : Bool) (m : Nat) (e : Int) : F32 :=
  if m = 0 then f32Zero neg
  else
    let len := m.log2 + 1
    let (q, x) := if len ≤ 24 then (m * 2 ^ (24 - len), e - (24 - len : Nat)) else (rneShift m (len - 24), e + (len - 24 : Nat))
    let (q, x) := if q = 2 ^ 24 then (2 ^ 23, x + 1) else (q, x)
    let E := x + 150
    if E < 1 then f32Zero neg
    else if 255 ≤ E then f32Inf neg
    else BitVec.ofNat 32 (neg.toNat * 2 ^ 31 + E.toNat * 2 ^ 23 + (q - 2 ^ 23))

/-- Signed integer significand at exponent `e0 ≤ e`. -/
def alignF (neg : Bool) (m : Nat) (e e0 : Int) : Int :=
  let v : Int := (m * 2 ^ (e - e0).toNat : Nat)
  if neg then -v else v

/-- Exact sum of two finite values, rounded once; an exact zero of two zeros of one sign keeps the sign. -/
def sumF (n1 : Bool) (m1 : Nat) (e1 : Int) (n2 : Bool) (m2 : Nat) (e2 : Int) : F32 :=
  let e0 := if m1 = 0 then e2 else if m2 = 0 then e1 else min e1 e2
  let v := (if m1 = 0 then 0 else alignF n1 m1 e1 e0) + (if m2 = 0 then 0 else alignF n2 m2 e2 e0)
  if v = 0 then f32Zero (n1 && n2 && m1 = 0 && m2 = 0) else packF (v < 0) v.natAbs e0

def addFp : Fp → Fp → F32
  | .nan, _ => f32Nan
  | _, .nan => f32Nan
  | .inf a, .inf b => if a = b then f32Inf a else f32Nan
  | .inf a, _ => f32Inf a
  | _, .inf b => f32Inf b
  | .fin a m e, .fin b n f => sumF a m e b n f

def mulFp : Fp → Fp → Fp
  | .nan, _ => .nan
  | _, .nan => .nan
  | .inf a, .inf b => .inf (a != b)
  | .inf a, .fin b m _ => if m = 0 then .nan else .inf (a != b)
  | .fin a m _, .inf b => if m = 0 then .nan else .inf (a != b)
  | .fin a m e, .fin b n f => .fin (a != b) (m * n) (e + f)

def packFp : Fp → F32
  | .nan => f32Nan
  | .inf a => f32Inf a
  | .fin a m e => packF a m e

def negFp : Fp → Fp
  | .nan => .nan
  | .inf a => .inf (!a)
  | .fin a m e => .fin (!a) m e

def f32Add (x y : F32) : F32 := addFp (unpackF x) (unpackF y)
def f32SubOp (x y : F32) : F32 := addFp (unpackF x) (negFp (unpackF y))
def f32Mul (x y : F32) : F32 := packFp (mulFp (unpackF x) (unpackF y))
/-- `x * y + z`, rounded once. -/
def f32Fma (x y z : F32) : F32 := addFp (mulFp (unpackF x) (unpackF y)) (unpackF z)
def f32Neg (x : F32) : F32 := x ^^^ 0x80000000
def f32Abs (x : F32) : F32 := x &&& 0x7FFFFFFF
def f32IsNan (x : F32) : Bool := unpackF x = .nan
def f32IsInf (x : F32) : Bool := unpackF x = .inf false || unpackF x = .inf true

/-- A number whose order is that of values that are not NaN; both zeros, and subnormals, are 0. -/
def f32Key (x : F32) : Int :=
  let m0 : Nat := x.toNat % 2 ^ 31
  let m : Nat := if m0 < 2 ^ 23 then 0 else m0
  if bit x.toNat 31 then -(m : Int) else m

def f32Lt (x y : F32) : Bool := !f32IsNan x && !f32IsNan y && f32Key x < f32Key y
def f32Le (x y : F32) : Bool := !f32IsNan x && !f32IsNan y && f32Key x ≤ f32Key y
/-- The larger of two values. -/
def f32Max (x y : F32) : F32 := if f32Lt x y then y else x

def f32OfInt (v : Int) : F32 := packF (v < 0) v.natAbs 0

/-- The nearest integer to a finite value, ties to even; 0 for a NaN or an infinity. -/
def f32Round (x : F32) : Int :=
  match unpackF x with
  | .fin neg m e =>
    let n := if 0 ≤ e then m * 2 ^ e.toNat else rneShift m (-e).toNat
    if neg then -(n : Int) else n
  | _ => 0

/-- A value times `2 ^ n`. -/
def f32Ldexp (x : F32) (n : Int) : F32 :=
  match unpackF x with
  | .fin neg m e => packF neg m (e + n)
  | v => packFp v

/-! ### FP16 -/

/-- Exact conversion, FP16 subnormals included (R141). -/
def f32OfF16 (h : Nat) : F32 :=
  let neg := bit h 15
  let e := bits h 10 5
  let f := bits h 0 10
  if e = 31 then (if f = 0 then f32Inf neg else f32Nan)
  else if e = 0 then packF neg f (-24)
  else packF neg (2 ^ 10 + f) (e - 25)

/-- Rounds `m * 2 ^ e` to a grid of `p` significant bits whose finest step is `2 ^ lo`: the steps, and the step's exponent. -/
def gridRound (p : Nat) (lo : Int) (m : Nat) (e : Int) : Nat × Int :=
  let q := max (e + m.log2 - (p - 1 : Nat)) lo
  (if q ≤ e then m * 2 ^ (e - q).toNat else rneShift m (q - e).toNat, q)

/-- f16_from_f32 (R161): ties to even, subnormals kept, never above 65,504. -/
def f16OfF32 (x : F32) : Nat :=
  let top := 0x7BFF
  match unpackF x with
  | .nan => 0x7E00
  | .inf neg => neg.toNat * 2 ^ 15 + top
  | .fin neg m e =>
    if m = 0 then neg.toNat * 2 ^ 15
    else
      let (n, q) := gridRound 11 (-24) m e
      neg.toNat * 2 ^ 15 + min ((q + 24).toNat * 2 ^ 10 + n) top

/-! ### Defined functions (R158) -/

def kE1 : F32 := 0x3F317218
def kE2 : F32 := 0x3E75FDF0
def kE3 : F32 := 0x3D635847
def kE4 : F32 := 0x3C1D955B
def kE5 : F32 := 0x3AAEC3FF
def kE6 : F32 := 0x39218489
def kQ0 : F32 := 0x3FB014CB
def kQ1 : F32 := 0xBEDB12A4
def kQ2 : F32 := 0x3D55FBB1
def kLog2e : F32 := 0x3FB8AA3B
def kNlog2e : F32 := 0xBFB8AA3B
def kK8 : F32 := 0x3C010204
def kKE : F32 := 0x3B124925
def f32OnePtFive : F32 := 0x3FC00000
def f32Half : F32 := 0x3F000000
def f32Two : F32 := 0x40000000

def exp2K (x : F32) : F32 :=
  if f32IsNan x then f32Nan
  else if f32Le 0x43000000 x then f32Inf false
  else if f32Lt x 0xC2FC0000 then 0
  else
    let n := f32Round x
    let f := f32SubOp x (f32OfInt n)
    let p := [kE5, kE4, kE3, kE2, kE1, f32One].foldl (fun p c => f32Fma p f c) kE6
    f32Ldexp p n

/-- One Newton step of rsqrt_k. -/
def rsqrtStep (h y : F32) : F32 := f32Mul y (f32SubOp f32OnePtFive (f32Mul h (f32Mul y y)))

def rsqrtK (x : F32) : F32 :=
  match unpackF x with
  | .nan => f32Nan
  | .inf neg => if neg then f32Nan else 0
  | .fin neg m0 _ =>
    if m0 = 0 then f32Inf false
    else if neg then f32Nan
    else
      let e : Int := bits x.toNat 23 8 - 127
      let m : F32 := BitVec.ofNat 32 (bits x.toNat 0 23 + 127 * 2 ^ 23)
      let (m, e) := if e % 2 = 0 then (m, e) else (f32Mul m f32Two, e - 1)
      let h := f32Mul m f32Half
      let y := f32Fma (f32Fma kQ2 m kQ1) m kQ0
      f32Ldexp (rsqrtStep h (rsqrtStep h (rsqrtStep h y))) (-(e / 2))

def rcpK (x : F32) : F32 :=
  let r := rsqrtK x
  f32Mul r r

def siluK (x : F32) : F32 :=
  if f32IsNan x then f32Nan
  else if x = f32Inf true then f32Zero true
  else f32Mul x (rcpK (f32Add f32One (exp2K (f32Mul x kNlog2e))))

/-- Pairwise f32_add of neighbouring lanes. -/
def pairSums : List F32 → List F32
  | a :: b :: r => f32Add a b :: pairSums r
  | xs => xs

/-- Pairwise reduction until one value is left, `n` halvings (R159). -/
def pairReduce : Nat → List F32 → F32
  | 0, xs => xs.headD 0
  | n + 1, xs => pairReduce n (pairSums xs)

/-! ### QUANT (R151) -/

/-- What QUANT of one element answers: the code, and |v|, or that the element was a NaN or was clamped. -/
structure Quant where
  code : Int
  mag : F32
  nan : Bool
  clamp : Bool
  deriving DecidableEq, Repr

def quant16 (x inv : F32) : Quant :=
  if f32IsNan x then ⟨0, 0, true, false⟩
  else
    let v := f32Mul x inv
    let a := f32Abs v
    if f32IsInf v then ⟨if bit v.toNat 31 then -32767 else 32767, a, false, true⟩
    else
      let r := f32Round v
      if 32767 < r then ⟨32767, a, false, true⟩
      else if r < -32767 then ⟨-32767, a, false, true⟩
      else ⟨r, a, false, false⟩

/-! ### Key-value codes (R160 to R162) -/

/-- e4m3_rne_saturate: magnitude at most 448. -/
def e4m3Of (v : F32) : Nat :=
  match unpackF v with
  | .nan => 0
  | .inf neg => neg.toNat * 128 + 0x7E
  | .fin neg m e =>
    if m = 0 then neg.toNat * 128
    else
      let (n, q) := gridRound 4 (-9) m e
      neg.toNat * 128 + min ((q + 9).toNat * 8 + n) 0x7E

/-- The value of an E4M3 code; 0x7F and 0xFF decode as +0.0. -/
def e4m3Val (c : Nat) : F32 :=
  let e := bits c 3 4
  let f := bits c 0 3
  if c % 128 = 127 then 0
  else if e = 0 then packF (bit c 7) f (-9)
  else packF (bit c 7) (8 + f) (e - 10)

/-- Code of one element with the reciprocal `r` of its scale. -/
def kvCode (fmt : Nat) (x r : F32) : Nat :=
  let v := if f32IsNan x then 0 else f32Mul x r
  if fmt = 0 then
    let n : Int := if f32IsInf v then (if bit v.toNat 31 then -127 else 127) else f32Round v
    twos 8 (max (-127) (min 127 n))
  else e4m3Of v

/-- kv_quant of a vector: its codes and its FP16 scale. -/
def kvQuant (fmt : Nat) (xs : List F32) : List Nat × Nat :=
  let a := xs.foldl (fun a x => if !f32IsNan x && f32Lt a (f32Abs x) then f32Abs x else a) 0
  let s := if f32Key a = 0 then 0 else f16OfF32 (f32Mul a (if fmt = 0 then kK8 else kKE))
  if s = 0 then (xs.map fun _ => 0, 0)
  else
    let r := rcpK (f32OfF16 s)
    (xs.map (kvCode fmt · r), s)

/-- Value of a code under a scale; a scale of +0 decodes everything as +0.0. -/
def kvVal (fmt code scale : Nat) : F32 :=
  if scale = 0 then 0
  else f32Mul (if fmt = 0 then f32OfInt (signed 8 code) else e4m3Val code) (f32OfF16 scale)

end Sys2Proof.Machine
end

