-- ==== Sys2Proof/Machine/Margins.lean ====
section
/-! DEFINITION. Curves (R450), refresh windows and bands in force (R252, R467), power state (R472), and the telemetry block (R481). -/
namespace Sys2Proof.Machine

/-! ### Curves (R450) -/

/-- The segment that holds `x`, which lies at or above the first point. -/
def curveSeg (linear : Bool) (x : Int) : List (Int × Int) → Int
  | [] => 0
  | [p] => p.2
  | p :: q :: r =>
    if x < q.1 then (if linear then p.2 + (q.2 - p.2) * (x - p.1) / (q.1 - p.1) else p.2)
    else curveSeg linear x (q :: r)

/-- A curve at `x`; a LINEAR quotient is rounded toward minus infinity. -/
def evalCurve (c : CurveRec) (x : Int) : Int :=
  match c.pts with
  | [] => 0
  | p :: r => if x ≤ p.1 then p.2 else curveSeg c.linear x (p :: r)

def aclkByLevel : CurveRec := ⟨0x0010, true, [(0, 3300), (15, 1800)]⟩
def fawByLevel : CurveRec := ⟨0x0011, false, [(0, 8), (4, 6), (8, 4), (12, 2)]⟩
def limitByTemp : CurveRec := ⟨0x0012, true, [(95, 3000), (105, 1800)]⟩
def vbaseByClock : CurveRec := ⟨0x0013, true, [(1800, 650), (3300, 790)]⟩

/-- The curve in force of a default's ID, at `x`. -/
def curveAt (s : State) (dflt : CurveRec) (x : Int) : Int := evalCurve ((mapGet s.cfg.curves dflt.id).getD dflt) x

/-! ### The array clock (R466) -/

/-- The lesser of the ceiling and the clock of the level. -/
def arrayClock (s : State) : Nat :=
  min (rd0 s AGE_ACLK_CEIL_MHZ) (curveAt s aclkByLevel (rd0 s PWR_LVL_A)).toNat

def settleClock (s : State) : State := wr0 s AGE_ACLK_MHZ (arrayClock s)

/-- VBASE of a clock plus a guard, in mV, before the clamp. -/
def coreNeed (s : State) (clock guard : Nat) : Int := curveAt s vbaseByClock clock + guard

/-! ### Refresh windows (R252, R467) -/

/-- The lesser of two words, byte by byte. -/
def minBytes (a b : Nat) : Nat := leNat ((List.range 8).map fun i => BitVec.ofNat 8 (min (bits a (8 * i) 8) (bits b (8 * i) 8)))

/-- STK_REF_WIN in force of a stack: of the written bytes and the planner's, the lesser. -/
def winInForce (s : State) (k : Nat) : Nat := minBytes (rd0 s (inst STK_REF_WIN k)) (mapGetD s.ops.wins k winsNone)

def windowOf (s : State) (k b : Nat) : Nat := bits (winInForce s k) (8 * b) 8

/-- The first band whose bound is at or above a temperature, else band 7. -/
def bandFor (s : State) (k t : Nat) : Nat :=
  (firstBelow 8 fun b => decide (t ≤ bits (rd0 s (inst STK_REF_TEMP k)) (8 * b) 8)).getD 7

/-- Interval of refresh commands in ns: 6,144 of them in a window. -/
def settleInterval (s : State) (k : Nat) : State :=
  wr0 s (inst STK_REF_STS_INTERVAL k) (windowOf s k (rd0 s (inst STK_REF_STS_BAND k)) * 1000000 / 6144)

/-- A stack moves to the band of its temperature: to a shorter or equal window at once, to a longer one only at a Slate. -/
def settleBand (s : State) (k : Nat) (slate : Bool) : State :=
  let b := bandFor s k (rd0 s (inst STK_REF_STS_TEMP k))
  let now := rd0 s (inst STK_REF_STS_BAND k)
  let s := if slate || windowOf s k b ≤ windowOf s k now then wr0 s (inst STK_REF_STS_BAND k) b else s
  settleInterval s k

def settleBands (s : State) : State := forEach (List.range 32) s fun s k => settleBand s k true

/-! ### The planner's values (R466) -/

/-- What the planner has decided takes effect. -/
def adoptPlanner (s : State) : State :=
  let s := { s with ops := { s.ops with wins := s.ops.block.wins } }
  let s := wr0 (wr0 s AGE_GUARD_MV s.ops.block.guard) AGE_ACLK_CEIL_MHZ s.ops.block.ceiling
  settleClock s

/-! ### Power state (R472) and telemetry (R481) -/

def powerState (s : State) : Nat :=
  if !s.pins.pwrOk then 0
  else if s.pins.boot ≠ .done then 1
  else if s.frame.halted then 4
  else if runSet s && !recovery s then 3
  else 2

/-- Cumulative powered hours (R471). -/
def hours (s : State) : Nat := (s.ops.block.powered + rd0 s HUB_UPTIME) / 3600000000

/-- Hottest sensor of a range, in °C. -/
def hottest (s : State) (lo hi : Nat) : Nat :=
  s.ops.temps.foldl (fun m t => if lo ≤ t.1 && t.1 < hi then max m t.2 else m) 0

def byteMax (n : Nat) : Nat := min n 255

/-- Draw averaged over the samples since the last renewal, as PWR_NOW holds it. -/
def powerAverage (s : State) : Nat :=
  let avg := fun n => if s.ops.samples = 0 then 0 else min (n / s.ops.samples) 65535
  let o := s.ops
  avg (o.sumHub + o.sumArray + o.sumStack) + avg o.sumArray * 2 ^ 16 + avg o.sumStack * 2 ^ 32 + avg o.sumHub * 2 ^ 48

def highestBand (s : State) : Nat := (List.range 32).foldl (fun m k => max m (rd0 s (inst STK_REF_STS_BAND k))) 0

def railBytes (s : State) (r : Nat) : Bytes :=
  let x := mapGetD s.ops.rails r (0, 0)
  leBytes 2 (min x.1 65535) ++ leBytes 2 (min x.2 65535)

/-- The telemetry block: 256 bytes. -/
def telemetryBlock (s : State) : Bytes :=
  leBytes 2 1 ++ leBytes 2 s.ops.telSeq ++ leBytes 4 (powerState s) ++ leBytes 8 (rd0 s HUB_UPTIME) ++ leBytes 8 (rd0 s FRM_TICK)
    ++ leBytes 8 (rd0 s PWR_NOW) ++ leBytes 8 (rd0 s PWR_ENERGY)
    ++ leBytes 4 (byteMax (hottest s 0 80) + byteMax (hottest s 80 88) * 2 ^ 8 + byteMax (hottest s 88 152) * 2 ^ 16
        + rd0 s TMP_ALERT_NOW * 2 ^ 24)
    ++ leBytes 4 (rd0 s PWR_LVL_A + rd0 s PWR_LVL_S * 2 ^ 4 + highestBand s * 2 ^ 8)
    ++ leBytes 4 (rd0 s AGE_ACLK_MHZ + rd0 s AGE_ACLK_VCORE_MV * 2 ^ 16)
    ++ leBytes 4 (rd0 s AGE_GUARD_MV + rd0 s AGE_STS_EXHAUSTED * 2 ^ 8)
    ++ leBytes 4 (min (rd0 s PWR_THR_NS / 1000000) (2 ^ 32 - 1)) ++ leBytes 4 (min s.ops.slips (2 ^ 32 - 1))
    ++ (List.range 5).flatMap (railBytes s) ++ List.replicate 172 0

/-- Pads bytes with zeros to `n`. -/
def padTo (n : Nat) (b : Bytes) : Bytes := b.take n ++ List.replicate (n - b.length) 0

/-- The 4 KiB of a STATS_SNAPSHOT (R482). -/
def snapshotBytes (s : State) (n : Nat) : Bytes :=
  padTo 4096 (padTo 256 s.ops.telemetry ++ (s.ops.ledger.take n).flatMap id)

end Sys2Proof.Machine
end

