-- ==== Sys2Proof/Machine/FldOps.lean ====
section
/-! DEFINITION. Register fields as the register space sees them (17, 02): which fields lie at an offset, which function sees
them, the checks of a write, pending writes, and what a field's value taking force does. -/
namespace Sys2Proof.Machine

/-- A field found at an offset: its page, the base of its instance's page, its register-table row, and the field itself. -/
structure Hit where
  page : Page
  base : Nat
  spec : Spec
  fld : Fld
  deriving DecidableEq, Repr

/-- The page that holds a BAR0 offset, with the base of the instance (R432). -/
def pageAt (off : Nat) : Option (Page × Nat) :=
  (pages.find? (fun p => p.base ≤ off && off < p.base + 0x1000 * p.insts)).map fun p => (p, off / 0x1000 * 0x1000)

/-- The fields of one row at in-page offset `r`; `a` is the row's in-page address. -/
def rowHits (p : Page) (base r a : Nat) (sp : Spec) : List Hit :=
  if r < a || (r - a) ≠ (if sp.cnt = 1 then 0 else (r - a) / sp.stride * sp.stride) then []
  else if sp.cnt ≠ 1 && sp.cnt ≤ (r - a) / sp.stride then []
  else (List.range sp.lcnt).map fun j =>
    let lsb := sp.fld.lsb + j * sp.lstride
    let f : Fld := { sp.fld with addr := base + r, lsb := lsb }
    let f := if sp.tag = .rgnBound then { f with rst := if 24 ≤ r - a && 6 ≤ j then 0 else 40 } else f
    ⟨p, base, sp, f⟩

/-- Insertion by ascending least significant bit. -/
def insertHit (h : Hit) : List Hit → List Hit
  | [] => [h]
  | x :: xs => if h.fld.lsb ≤ x.fld.lsb then h :: x :: xs else x :: insertHit h xs

/-- Fields of the 8-byte register at an offset, in ascending order; none at a reserved offset (R430). -/
def hitsAt (off : Nat) : List Hit :=
  match pageAt off with
  | none => []
  | some (p, base) =>
    let r := off % 0x1000 / 8 * 8
    ((specsHeader.flatMap fun sp => rowHits p base r sp.fld.addr sp)
      ++ (p.specs.flatMap fun sp => rowHits p base r (sp.fld.addr - p.base) sp)).foldr insertHit []

/-- The physical-function offset that a virtual function's window offset stands for (R383). -/
def windowOff (off : Nat) : Option Nat :=
  (pages.find? (fun p => p.window = some (off / 0x1000))).map fun p => p.base + off % 0x1000

/-- Offset in the register space that function `fn`'s offset reaches. -/
def reachOff (fn off : Nat) : Option Nat := if fn = 0 then some off else windowOff off

/-- Function whose copy of a field `fn` reaches. -/
def copyOf (fn : Nat) (sp : Spec) : Nat := if sp.seen = .own then fn else 0

/-- `fn` reaches the field: a virtual function sees its own copies, shared ones, and the whole header. -/
def sees (fn : Nat) (h : Hit) : Bool := fn = 0 || h.spec.seen ≠ .phys || h.fld.addr % 0x1000 < 0x40

/-! ### Effective configuration values (R457) -/

/-- A REG record names the field. -/
def recNames (base : Nat) (f : Fld) (r : RegRec) : Bool :=
  r.lsb = f.lsb && (if r.all then
      match pageAt base with
      | some (p, _) => r.off + (base - p.base) = f.addr
      | none => false
    else r.off = f.addr)

/-- The value an image's records give a field; an instance's own record wins over ALL (R448). -/
def imageValue (regs : List RegRec) (base : Nat) (f : Fld) : Option Nat :=
  match regs.find? (fun r => !r.all && recNames base f r) with
  | some r => some r.value
  | none => (regs.find? (fun r => recNames base f r)).map (·.value)

/-- Value in the highest occupied slot that names the field, else of the base image. -/
def effective (s : State) (base : Nat) (f : Fld) : Nat :=
  match (s.cfg.slots.reverse.findSome? fun p => imageValue p.2.regs base f) with
  | some v => v
  | none => mapGetD s.cfg.base (regKey 0 f) f.rst

/-! ### Pending writes (R43, R44, R508) -/

def pendingOf (s : State) (fn : Nat) (f : Fld) : Option PendWrite :=
  s.shadow.find? fun w => w.fn = fn && w.fld = f

/-- The value of a field in force; for STK_REF_WIN the lesser of the written bytes and the planner's (R467). -/
def inForce (s : State) (fn : Nat) (f : Fld) : Nat :=
  let k := (f.addr - STK_REF_WIN.addr) / 0x1000
  if f = inst STK_REF_WIN k then winInForce s k else rd s fn f

/-- The value that a field would otherwise hold at the next tick. -/
def nextValue (s : State) (fn : Nat) (f : Fld) : Nat :=
  match pendingOf s fn f with
  | some w => w.value
  | none => inForce s fn f

/-- An accepted write to an RWT field replaces one that is pending. -/
def pend (s : State) (fn base : Nat) (tag : Tag) (f : Fld) (v : Nat) : State :=
  { s with shadow := s.shadow.filter (fun w => !(w.fn = fn && w.fld = f)) ++ [⟨fn, base, f, tag, v⟩] }

/-! ### Checks of one field (R45) -/

/-- Field `f` of another register at the same array index as `at_`. -/
def sibling (f first at_ : Fld) : Fld := { f with addr := f.addr + (at_.addr - first.addr) }

def bytesOf (v : Nat) : List Nat := (List.range 8).map fun i => bits v (8 * i) 8

def nonIncreasing : List Nat → Bool
  | [] => true
  | [_] => true
  | a :: b :: r => b ≤ a && nonIncreasing (b :: r)

def nonDecreasing : List Nat → Bool
  | [] => true
  | [_] => true
  | a :: b :: r => a ≤ b && nonDecreasing (b :: r)

/-- A ring base and its CTL may not change while an enabled ring uses them, and an output ring not while an entry names it
(R276, R385). -/
def ringNamed (s : State) (fn : Nat) (at_ : Fld) : Bool :=
  let r := (at_.addr - SMP_OR_BASE.addr) / 32
  s.entries.any fun e => e.2.st ≠ .free && e.2.fn = fn && e.2.outRing = r

def counterOk (head tail size : Nat) : Bool := ringUsed head tail ≤ 2 ^ size

/-- The two submission-side tags share their checks. -/
def sizeStatus (lo hi : Nat) (v : Nat) : Option Nat := if v < lo || hi < v then some stLimit else none

def baseStatus (enabled : Bool) (v : Nat) : Option Nat :=
  if enabled then some stBadState else if v % 4096 ≠ 0 then some stBadField else none

def conversionRuns (s : State) : Bool := (List.range 32).any fun n => flag s (inst RGN_STS_CONVERTING n)

/-- A combination of SRC and ROLE that R27 allows. -/
def sourceOk (s : State) : Bool :=
  let src := rd0 s FRM_CFG_SRC
  if leader s then src < 2 else src = 1 || src = 2

def runStatus (s : State) (v : Nat) : Option Nat :=
  if v = 0 then none
  else if recovery s || flag s ERL_HELD_DEVICE then some stDenied
  else if conversionRuns s then some stBadState
  else if !sourceOk s then some stBadField
  else none

/-- The granules of a bank between two boundaries, which would change region. -/
def movedGrans (old new : Nat) : List Nat := upto (min old new) (max old new - min old new)

/-- Moving a channel's boundary would move a granule that an object or a mask area holds (R231). -/
def boundaryHeld (s : State) (st ch old new : Nat) : Bool :=
  (List.range 32).any fun bk => (movedGrans old new).any fun g => granHeld s (bankKey st ch bk) g

def boundStatus (s : State) (st ch v : Nat) : Option Nat :=
  if runSet s then some stDenied
  else if 48 < v then some stLimit
  else if boundaryHeld s st ch (bound s st ch) v then some stDenied
  else none

/-- Some reel is resident, one that is being unloaded included. -/
def anyReel (s : State) : Bool := s.reels.any fun r => r.2.st = .resident || r.2.st = .unloading

/-- Status with which a changed field's write is dropped, by the field's own table (R45, R508). -/
def fieldStatus (s : State) (fn : Nat) (h : Hit) (v : Nat) : Option Nat :=
  let f := h.fld
  match h.spec.tag with
  | .rng lo hi => sizeStatus lo hi v
  | .align n => if v % 2 ^ n ≠ 0 then some stBadField else none
  | .enum m => if m < v then some stBadField else none
  | .run => runStatus s v
  | .denyRun => if runSet s then some stDenied else none
  | .period => if !leader s then some stDenied else sizeStatus 250 100000 v
  | .grow => if (List.range 16).any (fun i => 8 < bits v (4 * i) 4) then some stBadField else none
  | .curve0 =>
    if nonIncreasing (bytesOf v) && bits (nextValue s 0 SHL_ADM_CURVE1) 0 8 ≤ bits v 56 8 then none else some stBadField
  | .curve1 =>
    if nonIncreasing (bytesOf v) && bits v 0 8 ≤ bits (nextValue s 0 SHL_ADM_CURVE0) 56 8 then none else some stBadField
  | .vector => if 63 < v then some stExtent else none
  | .orBase => if ringNamed s fn f then some stBadState else if v % 4096 ≠ 0 then some stBadField else none
  | .orEn => if ringNamed s fn f then some stBadState else none
  | .orSize => if ringNamed s fn f then some stBadState else sizeStatus 6 16 v
  | .orHead =>
    if counterOk v (rd s fn (sibling SMP_OR_TAIL SMP_OR_HEAD f)) (rd s fn (sibling SMP_OR_SIZE SMP_OR_HEAD f)) then none
    else some stExtent
  | .stream => if (reelOf s ((f.addr - UMR_STREAM_OBJ.addr) / 8)).st ≠ .empty then some stDenied else none
  | .streamSlots =>
    if (reelOf s ((f.addr - UMR_STREAM_OBJ.addr) / 8)).st ≠ .empty then some stDenied else sizeStatus 2 9 v
  | .streamEn => if (reelOf s ((f.addr - UMR_STREAM_OBJ.addr) / 8)).st ≠ .empty then some stDenied else none
  | .xqBase => if v % 4096 ≠ 0 then some stBadField else none
  | .xqSize => sizeStatus 4 16 v
  | .xqTail =>
    if counterOk (rd s fn (sibling XPD_Q_HEAD XPD_Q_TAIL f)) v (rd s fn (sibling XPD_Q_SIZE XPD_Q_TAIL f)) then none
    else some stExtent
  | .owner => if v ≤ 32 || v = 63 then none else some stBadField
  | .chMask => if bits v 0 2 = 3 then none else some stBadField
  | .sqBase => baseStatus (rd s fn (sibling PCI_SQ_EN PCI_SQ_BASE f) = 1) v
  | .sqSize =>
    let en := sibling PCI_SQ_EN PCI_SQ_SIZE f
    if rd s fn en = 1 && nextValue s fn en = 1 then some stBadState else sizeStatus 6 14 v
  | .sqTail =>
    if counterOk (rd s fn (sibling PCI_SQ_HEAD PCI_SQ_TAIL f)) v (rd s fn (sibling PCI_SQ_SIZE PCI_SQ_TAIL f)) then none
    else some stExtent
  | .evrBase => if v % 4096 ≠ 0 then some stBadField else none
  | .evrSize => sizeStatus 6 16 v
  | .evrHead => if counterOk v (rd s fn PCI_EVR_TAIL) (rd s fn PCI_EVR_SIZE) then none else some stExtent
  | .csvFirst => if entryDenied s fn v then some stDenied else none
  | .erlBase => if v % 4096 ≠ 0 then some stBadField else none
  | .erlSize => sizeStatus 6 16 v
  | .erlHead => if counterOk v (rd0 s ERL_RING_TAIL) (rd0 s ERL_RING_SIZE) then none else some stExtent
  | .resetKey => if v = 0x5752 then none else some stDenied
  | .stageGo => if v = 1 && flag s CFG_STAGE_BUSY then some stBadState else none
  | .refTemp => if nonDecreasing (bytesOf v) then none else some stBadField
  | .refWin =>
    if (bytesOf v).contains 0 then some stLimit else if nonIncreasing (bytesOf v) then none else some stBadField
  | .stageRows => if anyReel s then some stDenied else sizeStatus 16 255 v
  | .rgnBound =>
    boundStatus s ((h.base - 0xE0000) / 0x1000) ((f.addr - h.base - 0x100) / 8 * 8 + f.lsb / 8) v
  | .enable =>
    if fn ≠ 0 then some stDenied
    else if h.page.type ≠ 0x20 || runSet s then some stDenied else none
  | .softReset => if v = 1 && (fn ≠ 0 || runSet s || !h.page.softReset) then some stDenied else none
  | .haltAtTick => if fn ≠ 0 || (v = 1 && (!diagnostic s || !leader s)) then some stDenied else none
  | _ => none

/-- The size field that an enable field needs, with its range (R509). -/
def companion (h : Hit) : Option (Fld × Nat × Nat) :=
  let a := h.fld
  match h.spec.tag with
  | .orEn => some (sibling SMP_OR_SIZE SMP_OR_EN a, 6, 16)
  | .streamEn => some (sibling UMR_STREAM_SLOTS UMR_STREAM_EN a, 2, 9)
  | .xqEn => some (sibling XPD_Q_SIZE XPD_Q_EN a, 4, 16)
  | .sqEn => some (sibling PCI_SQ_SIZE PCI_SQ_EN a, 6, 14)
  | .evrEn => some (PCI_EVR_SIZE, 6, 16)
  | .erlEn => some (ERL_RING_SIZE, 6, 16)
  | _ => none

/-! ### A value takes force -/

/-- Enabling a submission ring sets HEAD and TAIL to 0; commands of its earlier use are not read (R386). -/
def openSq (s : State) (fn q : Nat) : State :=
  let s := wr (wr s fn (sqFld PCI_SQ_HEAD q) 0) fn (sqFld PCI_SQ_TAIL q) 0
  let s := setFn s fn { fnOf s fn with latched := (fnOf s fn).latched.set q 0 }
  { s with ring := s.ring.filter (fun c => !inRing fn q c) }

def xqFld (f : Fld) (q : Nat) : Fld := fldAt f q 32
def xqKey (fn q : Nat) : Nat := fn * 8 + q

/-- Enabling a descriptor queue sets HEAD and TAIL to 0 (R308). -/
def openXq (s : State) (fn q : Nat) : State :=
  let s := wr (wr s fn (xqFld XPD_Q_HEAD q) 0) fn (xqFld XPD_Q_TAIL q) 0
  { s with xqLatched := mapSet 0 s.xqLatched (xqKey fn q) 0 }

/-- Disabling a descriptor queue aborts the TABLE_LOADs that wait on it (R311). -/
def closeXq (s : State) (fn q : Nat) : State :=
  let gone := s.tblLoads.filter fun t => t.cmd.fn = fn && t.queue = q
  forEach gone { s with tblLoads := s.tblLoads.filter (fun t => !(t.cmd.fn = fn && t.queue = q)) }
    fun s t => conclude s t.cmd stAborted

def tblKey (group slot : Nat) : Nat := group * 16 + slot

/-- What follows when a field of this tag takes value `v` instead of `old`. -/
def fieldEffect (s : State) (fn : Nat) (tag : Tag) (f : Fld) (old v : Nat) : State :=
  match tag with
  | .orEn =>
    if old = 0 && v = 1 then
      wr (wr s fn (sibling SMP_OR_HEAD SMP_OR_EN f) 0) fn (sibling SMP_OR_TAIL SMP_OR_EN f) 0
    else s
  | .sqEn => if old = 0 && v = 1 then openSq s fn ((f.addr - PCI_SQ_EN.addr) / 32) else s
  | .xqEn =>
    if old = 0 && v = 1 then openXq s fn ((f.addr - XPD_Q_EN.addr) / 32)
    else if old = 1 && v = 0 then closeXq s fn ((f.addr - XPD_Q_EN.addr) / 32) else s
  | .evrEn =>
    if old = 0 && v = 1 then
      let s := wr (wr s fn PCI_EVR_HEAD 0) fn PCI_EVR_TAIL 0
      flushEvents (fnOf s fn).hold s fn
    else s
  | .erlEn =>
    if old = 0 && v = 1 then
      let s := wr0 (wr0 s ERL_RING_HEAD 0) ERL_RING_TAIL 0
      flushErrors s.erl.hold s
    else s
  | .owner =>
    if old = v then s
    else
      let k := (f.addr - XPD_SLOT_OWN.addr) / 8 * 8 + f.lsb / 8
      { s with tblSlots := mapDel s.tblSlots k }
  | .alertSrc => settleAlert s
  | .rng _ _ => settleAlert s
  | _ => s

/-- A field takes a value, with what follows from it. -/
def putField (s : State) (fn : Nat) (tag : Tag) (f : Fld) (v : Nat) : State :=
  let old := rd s fn f
  fieldEffect (wr s fn f v) fn tag f old (v % 2 ^ f.width)

/-- Every pending write takes effect at once (R43). -/
def commitShadows (s : State) : State :=
  let ws := s.shadow
  forEach ws { s with shadow := [] } fun s w => putField s w.fn w.tag w.fld w.value

/-- DISCARD drops the writes that function `fn` has pending in a page (R438, R439). -/
def dropPending (s : State) (fn base : Nat) : State :=
  { s with shadow := s.shadow.filter (fun w => !(w.page = base && w.fn = fn)) }

/-- The value a field returns to at a soft reset: its effective value when it is cfg, its reset value otherwise (R436). -/
def resetValue (s : State) (base : Nat) (sp : Spec) (f : Fld) : Nat :=
  if sp.cfg = .named || sp.cfg = .named0 then effective s base f else f.rst

/-- Fields of one row in the page at `base`; `a` is the row's in-page address. -/
def specHits (p : Page) (base a : Nat) (sp : Spec) : List Hit :=
  (List.range sp.cnt).flatMap fun i => rowHits p base (a + i * sp.stride) a sp

/-- All fields of a page's instance. -/
def pageHits (base : Nat) : List Hit :=
  match pageAt base with
  | none => []
  | some (p, b) =>
    (specsHeader.flatMap fun sp => specHits p b sp.fld.addr sp)
      ++ p.specs.flatMap fun sp => specHits p b (sp.fld.addr - p.base) sp

/-- A soft reset of a page (R436): RW and RWT fields of the physical function's copy, counters, error header, pending writes. -/
def softReset (s : State) (base : Nat) : State :=
  let s := dropPending s 0 base
  forEach (pageHits base) s fun s h =>
    if h.spec.tag = .enable || h.spec.tag = .haltAtTick then wr s 0 h.fld h.fld.rst
    else match h.spec.acc with
      | .rw | .rwt => wr s 0 h.fld (resetValue s base h.spec h.fld)
      | .rc | .w1c => wr s 0 h.fld h.fld.rst
      | _ => if 0x30 ≤ h.fld.addr % 0x1000 && h.fld.addr % 0x1000 < 0x38 then wr s 0 h.fld 0 else s

end Sys2Proof.Machine
end

