-- ==== Sys2Proof/Machine/CallSheet.lean ====
section
/-! DEFINITION. The call sheet (03) with its page lists (R176 to R185) and sampler copies (R260 to R262): the effect of each
call-sheet command on its entry. -/
namespace Sys2Proof.Machine

def ctxMax : Nat := 2097152

def entCode : EntSt → Nat
  | .free => 0 | .staged => 1 | .feeding => 2 | .decoding => 3 | .finished => 4 | .faulted => 5 | .striking => 6

/-- The 128 bytes of an entry's window (R58). -/
def entryBytes (e : Entry) : Bytes :=
  leBytes 8 (entCode e.st + e.plSel * 2 ^ 3 + e.reel * 2 ^ 4 + e.tenant * 2 ^ 6 + e.prio * 2 ^ 11 + e.lateAct * 2 ^ 14
      + e.pages.length * 2 ^ 16 + e.plCap * 2 ^ 26 + e.outRing * 2 ^ 36 + e.drafts.length * 2 ^ 42
      + e.lateSeen.toNat * 2 ^ 46 + e.finReason * 2 ^ 48 + e.faultStatus * 2 ^ 56)
    ++ leBytes 8 (e.lenCommit + e.lenTent * 2 ^ 32) ++ leBytes 8 (e.plPtr + e.dlNext * 2 ^ 48)
    ++ leBytes 8 (e.dlEnd + e.maskState * 2 ^ 48) ++ leBytes 8 (e.smpPtr + e.maskTbl * 2 ^ 48)
    ++ leBytes 8 (e.stopPtr + e.stopCnt * 2 ^ 48) ++ leBytes 8 (e.maxNew + e.emitted * 2 ^ 32)
    ++ leBytes 8 (e.feedLen + e.feedCur * 2 ^ 32) ++ leBytes 8 e.feedPtr ++ leBytes 8 e.seed.toNat ++ leBytes 8 e.userTag
    ++ leBytes 8 e.admitTick ++ leBytes 8 e.nextDue ++ leBytes 8 e.lastTick ++ leBytes 8 e.updCnt
    ++ leBytes 8 (e.pendTok + e.pendValid.toNat * 2 ^ 18)

/-- NEXT_DUE (R84): the lesser of the nonzero terms. -/
def nextDue (e : Entry) : Nat :=
  let a := e.dlEnd
  let b := if e.dlNext = 0 then 0 else (e.lastTick + e.dlNext) % 2 ^ 48
  if a = 0 then b else if b = 0 then a else min a b

/-- Pending drafts go unused and count as rejected (R67). -/
def dropDrafts (s : State) (e : Nat) : State :=
  let x := entryOf s e
  if x.drafts = [] then s
  else setEntry (bump0 s CSH_DRAFT_REJ x.drafts.length) e { x with drafts := [] }

/-- The open FEED concludes with a status (R68). -/
def endFeed (s : State) (e status : Nat) : State :=
  match (entryOf s e).feed with
  | none => s
  | some c => setEntry (conclude s c status) e { entryOf s e with feed := none }

/-- A pending edit is replaced or discarded (R184). -/
def dropEdit (s : State) (e : Nat) : State :=
  if (entryOf s e).edit = 0 then s
  else setEntry (bump0 s CSH_EDIT_REPLACED 1) e { entryOf s e with edit := 0 }

/-- ENTRY_END at the next Wrap of an entry that ended without a token record (R273, R390). -/
def noteEnd (s : State) (e : Nat) : State :=
  let x := entryOf s e
  { s with ended := s.ended ++ [(e, x.fn, ⟨3, x.faultStatus, x.userTag, e + x.finReason * 2 ^ 16, 0⟩)] }

/-- The entry enters FINISHED with a reason; it meets no late action any more (R86). -/
def finishEntry (s : State) (e reason : Nat) : State :=
  let s := dropDrafts s e
  setEntry s e { entryOf s e with st := .finished, finReason := reason, lenTent := (entryOf s e).lenCommit, lateDue := false }

/-- A SEQUENCE-class error: the entry enters FAULTED, its open FEED concludes with the same status (R76, R88), and FIN_REASON is 0 as
of every entry that is not FINISHED (the table of finish reasons). -/
def faultEntry (s : State) (e status : Nat) : State :=
  let s := dropDrafts s e
  let x := entryOf s e
  let s := setEntry s e { x with st := .faulted, faultStatus := status, finReason := 0, lenTent := x.lenCommit, lateDue := false }
  let s := bump0 s CSH_FAULT_CNT 1
  let s := raise s { cls := clSequence, reason := 0x100, status := status, type := 3, tenant := some x.tenant, entry := some e }
  noteEnd (endFeed s e status) e

/-- The strike of an entry's pages (R89). -/
def entryStrike (s : State) (e : Nat) (revoke : Bool) : Strike :=
  let x := entryOf s e
  let ps := x.pages.filter (fun p => !p.absent)
  { owner := .entry e, tenant := x.tenant, rows := ps.flatMap (pageRows s) ++ entryMaskRuns s e
    runs := ps.map fun p => (p.obj, p.rowOff, pageUnits (objOf s p.obj) p), revoke := revoke }

/-- The entry enters STRIKING: drafts and a pending edit go, an open FEED aborts, its pages are struck (R66, R89). -/
def strikeEntry (s : State) (e : Nat) (revoke : Bool) : State :=
  let s := endFeed (dropEdit (dropDrafts s e) e) e stAborted
  let s := { s with strikes := s.strikes ++ [entryStrike s e revoke] }
  setEntry s e { entryOf s e with st := .striking, finReason := 0, lenTent := (entryOf s e).lenCommit, lateDue := false }

/-! ### Page lists (R176, R177) -/

def pageWord (p : KvPage) : Nat := p.obj + p.psz * 2 ^ 16 + p.absent.toNat * 2 ^ 20 + p.rowOff * 2 ^ 32

def pageOfWord (w : Nat) : KvPage := ⟨bits w 0 16, bits w 16 4, bit w 20, bits w 32 32⟩

/-- Address of entry `i` of copy `c` of an entry's page-list pair. -/
def plAddr (x : Entry) (c i : Nat) : Nat := x.plPtr + c * (8 * x.plCap) + 8 * i

def plRead (s : State) (x : Entry) (c n : Nat) : List Nat := (List.range n).map fun i => uNat s (plAddr x c i) 8

def plWrite (s : State) (x : Entry) (c : Nat) (ws : List Nat) : State :=
  uWrite s (plAddr x c 0) (ws.flatMap (leBytes 8))

/-- First position after each page of a list. -/
def pageEnds : Nat → List KvPage → List Nat
  | _, [] => []
  | a, p :: ps => (a + pageLen p) :: pageEnds (a + pageLen p) ps

/-- Positions that a list covers. -/
def covered (ps : List KvPage) : Nat := (pageEnds 0 ps).getLastD 0

/-! ### Checks of ADMIT -/

def f32Sub (v : F32) : Bool := v.toNat / 2 ^ 23 % 256 = 0 && v.toNat % 2 ^ 23 ≠ 0
def f32Exc (v : F32) : Bool := v.toNat / 2 ^ 23 % 256 = 255

/-- ITEMP, TOPP, MINP and ACCEPT of a record are encodings that R262 allows. -/
def smpFieldsOk (itemp topp minp : F32) (topk accept : Nat) : Bool :=
  !f32Sub itemp && !f32Exc itemp && (itemp.toNat < 2 ^ 31 || itemp.toNat = 2 ^ 31)
    && 0 < topp.toNat && topp.toNat ≤ 0x3F800000 && (minp.toNat < 0x3F800000 || minp.toNat = 2 ^ 31) && accept < 2
    && !(topp.toNat < 0x3F800000 && topk = 0)

/-- The sampling record at SMP_PTR as its fields, and whether a reserved bit is nonzero (R261). -/
structure SmpRec where
  itemp : F32
  topk : Nat
  topp : F32
  minp : F32
  accept : Nat
  banCnt : Nat
  banPtr : Nat
  rsv : Bool
  deriving DecidableEq, Repr

def smpRecord (s : State) (a : Nat) : SmpRec :=
  let w2 := uNat s (a + 0x10) 8
  let w3 := uNat s (a + 0x18) 8
  { itemp := BitVec.ofNat 32 (uNat s a 4), topk := bits (uNat s (a + 4) 4) 0 9, topp := BitVec.ofNat 32 (uNat s (a + 8) 4)
    minp := BitVec.ofNat 32 (uNat s (a + 12) 4), accept := bits w2 0 2, banCnt := bits w2 8 7, banPtr := bits w3 0 48
    rsv := uNat s (a + 4) 4 / 2 ^ 9 ≠ 0 || bits w2 2 6 ≠ 0 || w2 / 2 ^ 15 ≠ 0 || w3 / 2 ^ 48 ≠ 0
      || (uReadN s (a + 0x20) 32).any (· ≠ 0) }

/-- The `n` ids of a ban list or stop set. -/
def idList (s : State) (a n : Nat) : List Nat := (List.range n).map fun i => uNat s (a + 4 * i) 4

/-- Failures of a ban list or stop set (R262): nothing beyond its encoding is checked of an empty one. -/
def idChecks (s : State) (t vocab a n : Nat) : Checks :=
  if wideBits a then checkOf stBadField true
  else if n = 0 then {}
  else
    { denied := !inTenant s t a
      badField := inTenant s t a && (idList s a n).any (fun v => 2 ^ 18 ≤ v)
      extent := inTenant s t a && (!insideObj s a (4 * n) || (idList s a n).any (fun v => vocab ≤ v % 2 ^ 18)) }

/-- Failures of the sampling record and its ban list. -/
def smpChecks (s : State) (t vocab a : Nat) : Checks :=
  if wideBits a then checkOf stBadField true
  else if !inTenant s t a then { denied := true }
  else
    let r := smpRecord s a
    bothChecks
      { badField := a % 64 ≠ 0 || r.rsv || !smpFieldsOk r.itemp r.topp r.minp r.topk r.accept
        limit := 256 < r.topk || 64 < r.banCnt, extent := !insideObj s a 64 }
      (idChecks s t vocab r.banPtr r.banCnt)

/-- KV objects whose pages an initial list may name: those of the shape that the reel needs, or of any shape where no reel gives one. -/
def initialObjs (s : State) (t : Nat) (r : Reel) : List Nat :=
  if r.st = .resident then kvObjs s t (reelAttn r).hdim (reelNps r)
  else (s.objs.filter fun o => o.2.st ≠ .free && o.2.st ≠ .unmapping && o.2.cls = 2 && !o.2.shared && o.2.tenant = t).map (·.1)

/-- Takes initial pages in order; each must be free in the tenant's pool with those before it taken (R178), which holds no unit of a
RETIRING granule (R233). -/
def takeInitial (s : State) (objs : List Nat) : List KvPage → List (Nat × Nat × Nat) → Bool
  | [], _ => true
  | p :: ps, taken =>
    let o := objOf s p.obj
    let n := pageUnits o p
    let runs := kvRuns s p.obj ++ ((taken.filter (fun r => r.1 = p.obj)).map (·.2))
    objs.contains p.obj && p.rowOff + n ≤ portionUnits o && runFree runs p.rowOff n && !runRetiring s o p.rowOff n
      && takeInitial s objs ps (taken ++ [(p.obj, p.rowOff, n)])

/-- An initial page-list word is an undefined encoding (R178, R6). -/
def pageBad (w : Nat) : Bool := bit w 20 || 8 < bits w 16 4 || bits w 21 11 ≠ 0

/-- The range of the page-list pair of an image (R62, R178, R281): what needs none of its words. -/
def listRange (s : State) (fn : Nat) (x : Entry) : Checks :=
  if x.plPtr % 8 ≠ 0 || wideBits x.plPtr then checkOf stBadField true else judge s fn x.plPtr (16 * min x.plCap 512) false

/-- Failures of the page-list pair of an image (R62, R178, R281). Words past the object of the pair are not read. -/
def listChecks (s : State) (fn t : Nat) (r : Reel) (x : Entry) (count : Nat) : Checks :=
  let k := listRange s fn x
  if k.badField || k.denied then k
  else
    let n := min count (min x.plCap 512)
    let n := (firstBelow n fun i => !insideObj s x.plPtr (8 * (i + 1))).getD n
    let ws := plRead s x 0 n
    let good := (ws.filter (fun w => !pageBad w)).map pageOfWord
    bothChecks k { badField := ws.any pageBad, denied := !takeInitial s (initialObjs s t r) good [] }

/-- The entry that an image makes. -/
def imageEntry (s : State) (fn : Nat) (i : AdmitImage) : Entry :=
  { entryZero with
    st := .staged, reel := i.reel.toNat, tenant := i.tenant.toNat, prio := i.prio.toNat, lateAct := i.lateAct.toNat
    plCap := i.plCap.toNat, outRing := i.outRing.toNat, plPtr := i.plPtr.toNat, dlNext := i.dlNext.toNat
    dlEnd := i.dlEnd.toNat, maskState := i.maskState.toNat, smpPtr := i.smpPtr.toNat, maskTbl := i.maskTbl.toNat
    stopPtr := i.stopPtr.toNat, stopCnt := i.stopCnt.toNat, maxNew := i.maxNew.toNat, seed := i.seed
    userTag := i.userTag.toNat, admitTick := slateTick s, lastTick := slateTick s, fn := fn }

/-- Failures of ADMIT that need no data read. -/
def admitChecks0 (s : State) (h : CmdHdr) (e : Nat) : Checks :=
  { denied := unbound s h.fn || entryDenied s h.fn e
    key := h.fn ≠ 0 && carried s h.fn none
    badState := e < 8192 && (entryOf s e).st ≠ .free
    badField := h.rsv
    limit := 8192 ≤ e }

/-- Failures of ADMIT's image alone (R62). -/
def admitChecks1 (s : State) (h : CmdHdr) (i : AdmitImage) : Checks :=
  let x := imageEntry s h.fn i
  let r := reelOf s x.reel
  let m := maskOf r x.maskTbl
  { denied := h.fn ≠ 0 && some x.tenant ≠ tenantOf s h.fn
    key := h.fn = 0 && slotBad s x.tenant
    badState := r.st ≠ .resident
    badField := i.other || x.lateAct = 3 || (x.maskTbl = 0 && x.maskState ≠ 0) || x.plPtr % 8 ≠ 0 || wideBits x.plPtr
      || x.smpPtr % 64 ≠ 0 || wideBits x.smpPtr || wideBits x.stopPtr
    limit := 512 < x.plCap || 512 < i.plCount.toNat || x.plCap = 0 || 32 < x.stopCnt || 16 < x.maskTbl || ctxMax < x.maxNew
    extent := rd s h.fn (fldAt SMP_OR_EN x.outRing 32) = 0 || x.plCap < i.plCount.toNat
      || (r.st = .resident && x.maskTbl ≤ 16 && r.masks.length < x.maskTbl)
      || m.any (fun m => m.states ≤ x.maskState) }

/-- Failures of what ADMIT reads through the image's pointers (R178, R262). -/
def admitChecks2 (s : State) (h : CmdHdr) (i : AdmitImage) : Checks :=
  let x := imageEntry s h.fn i
  let r := reelOf s x.reel
  bothChecks (listChecks s h.fn x.tenant r x i.plCount.toNat)
    (bothChecks (smpChecks s x.tenant r.vocab x.smpPtr)
      (idChecks s x.tenant r.vocab x.stopPtr x.stopCnt))

/-- An image of a virtual function names a unified address outside its tenant's objects (R281): the page-list pair, the sampling record,
and the lists that are not empty. -/
def admitNames (s : State) (h : CmdHdr) (i : AdmitImage) : Bool :=
  let x := imageEntry s h.fn i
  let r := smpRecord s x.smpPtr
  let bad := fun a => !wideBits a && !mayName s h.fn a false
  h.fn ≠ 0 && ((x.plPtr % 8 = 0 && bad x.plPtr) || bad x.smpPtr
    || (mayName s h.fn x.smpPtr false && 0 < r.banCnt && bad r.banPtr) || (0 < x.stopCnt && bad x.stopPtr))

/-- ADMIT takes effect (R63, R260): the entry is STAGED, copy 0 of its list goes to copy 1, the sampler keeps its copies. -/
def admitEffect (s : State) (h : CmdHdr) (e : Nat) (i : AdmitImage) : State :=
  let x := imageEntry s h.fn i
  let ws := plRead s x 0 i.plCount.toNat
  let r := smpRecord s x.smpPtr
  let x := { x with
    pages := ws.map pageOfWord, updCnt := (entryOf s e).updCnt, nextDue := nextDue x
    smp := ⟨r.itemp, r.topk, r.topp, r.minp, r.accept, idList s r.banPtr r.banCnt, idList s x.stopPtr x.stopCnt⟩ }
  writeBan (plWrite (setEntry s e x) x 1 ws) e

/-- The ranges that ADMIT reads through its image's own pointers: the words of copy 0, the sampling record, the stop set. -/
def admitReads (i : AdmitImage) (x : Entry) : List (Nat × Nat) :=
  [(x.plPtr, 8 * min i.plCount.toNat (min x.plCap 512)), (x.smpPtr, 64), (x.stopPtr, 4 * x.stopCnt)]

/-- Failures of those ranges that need none of their data (R62, R262, R515). -/
def admitRanges (s : State) (h : CmdHdr) (x : Entry) : Checks :=
  let side := fun a n =>
    if wideBits a then checkOf stBadField true
    else if n = 0 then {}
    else if !inTenant s x.tenant a then checkOf stDenied true else checkOf stExtent (!insideObj s a n)
  bothChecks (listRange s h.fn x) (bothChecks (side x.smpPtr 64) (side x.stopPtr (4 * x.stopCnt)))

/-- Addresses among `ue` that lie in a range and whose read can fail: compute rows report no error (R236). -/
def readsBad (s : State) (ue : List Nat) (rs : List (Nat × Nat)) : List Nat :=
  ue.filter fun a => rs.any (fun r => r.1 ≤ a && a < r.1 + r.2) && canFail s a

/-- Uncorrectable reads of operands: each counts and marks its granule (R235, R339). -/
def operandErrors (s : State) (as : List Nat) : State := as.foldl readError s

/-- Checks that need none of the ban list's ids: those of the record, and the range of the list. -/
def admitRecord (s : State) (h : CmdHdr) (i : AdmitImage) : Checks :=
  let x := imageEntry s h.fn i
  let r := smpRecord s x.smpPtr
  bothChecks (smpChecks s x.tenant (2 ^ 18) x.smpPtr) (if 64 < r.banCnt then checkOf stLimit true else {})

/-- `ue` are the unified addresses whose reads are uncorrectable. A failed operand read ranks after every check that needs none of the
data read, and before every check of it (R515). -/
def applyAdmit (h : CmdHdr) (entry : W16) (img : Option AdmitImage) (ue : List Nat) (s : State) (c : CmdId) : State :=
  let e := entry.toNat
  let k0 := admitChecks0 s h e
  match img with
  | none => conclude s c ((refusal k0).getD stUncorrected)
  | some i =>
    let x := imageEntry s h.fn i
    let k1 := bothChecks k0 (admitChecks1 s h i)
    let s := if admitNames s h i then bump0 s UMR_DENY_CNT 1 else s
    let k2 := bothChecks k1 (admitRanges s h x)
    let bad := readsBad s ue (admitReads i x)
    if bad ≠ [] then conclude (if refusal k2 = none then operandErrors s bad else s) c ((refusal k2).getD stUncorrected)
    else
      let r := smpRecord s x.smpPtr
      let k3 := bothChecks k2 (admitRecord s h i)
      let bad := if r.banCnt = 0 || refusal k3 ≠ none then [] else readsBad s ue [(r.banPtr, 4 * r.banCnt)]
      if bad ≠ [] then conclude (operandErrors s bad) c stUncorrected
      else guarded s c (bothChecks k1 (admitChecks2 s h i)) fun s => conclude (admitEffect s h e i) c stOk

/-! ### The other call-sheet commands (R66) -/

/-- Failures that every command naming an entry shares: who may name it, its key slot, and states that refuse with BAD_STATE. -/
def entryChecks (s : State) (h : CmdHdr) (e : Nat) (states : List EntSt) : Checks :=
  let x := entryOf s e
  { denied := unbound s h.fn || entryDenied s h.fn e
    key := carried s h.fn (if e < 8192 && x.st ≠ .free then some x.tenant else none)
    badState := e < 8192 && !states.contains x.st
    badField := h.rsv
    limit := 8192 ≤ e }

/-- The FIN_REASONs from which a FEED resumes: STOP, MAX_NEW, MASK_DONE. -/
def resumable (x : Entry) : Bool := x.finReason = 1 || x.finReason = 2 || x.finReason = 7

/-- A FEED_LEN of 0 is still held against LIMIT with LEN_COMMIT and PEND_VALID (R64's sentence before R12's no-op: the model's choice, log
entry 102). -/
def feedChecks (s : State) (h : CmdHdr) (e len : Nat) (go : Bool) (newState : Nat) (setState : Bool) : Checks :=
  let x := entryOf s e
  let m := maskOf (reelOf s x.reel) x.maskTbl
  let after := if setState then newState else x.maskState
  bothChecks (entryChecks s h e [.staged, .feeding, .decoding, .finished])
    { badState := (x.st = .finished && !resumable x) || (go && m.any (fun m => m.terminal = after))
      badField := setState && e < 8192 && x.maskTbl = 0
      limit := ctxMax < len || ctxMax < len + x.lenCommit + x.pendValid.toNat
      extent := setState && m.any (fun m => m.states ≤ newState)
      noRoom := x.st = .feeding }

/-- FEED begins (R66, R72, R75, R84). -/
def feedEffect (s : State) (c : CmdId) (e ptr len : Nat) (go : Bool) (newState : Nat) (setState : Bool) : State :=
  let s := dropDrafts s e
  let x := entryOf s e
  let resumed := x.st = .finished
  let x := { x with
    st := .feeding, feedLen := len, feedCur := 0, feedPtr := ptr, go := go, feed := some c
    emitted := if resumed then 0 else x.emitted, finReason := if resumed then 0 else x.finReason
    maskState := if setState then newState else x.maskState
    lastTick := if go then slateTick s else x.lastTick }
  setEntry s e { x with nextDue := if go then nextDue x else x.nextDue }

def applyFeed (h : CmdHdr) (entry : W16) (ptr : W64) (len : BitVec 22) (go : Bool) (newState : W16) (setState : Bool)
    (s : State) (c : CmdId) : State :=
  let e := entry.toNat
  guarded s c (feedChecks s h e len.toNat go newState.toNat setState) fun s =>
    if len = 0 then conclude s c stOk else feedEffect s c e ptr.toNat len.toNat go newState.toNat setState

def applyDraft (h : CmdHdr) (entry : W16) (count : BitVec 4) (toks : List (BitVec 18)) (s : State) (c : CmdId) : State :=
  let e := entry.toNat
  let n := count.toNat
  let ts := (toks.take n).map BitVec.toNat
  let k := bothChecks (entryChecks s h e [.decoding])
    { limit := 8 < n, extent := n ≤ 8 && ts.any (fun t => (reelOf s (entryOf s e).reel).vocab ≤ t) }
  guarded s c k fun s =>
    if n = 0 then conclude s c stOk
    else
      let s := dropDrafts s e
      concludeDraft (setEntry s e { entryOf s e with drafts := ts }) c e

def applyRelease (h : CmdHdr) (entry : W16) (s : State) (c : CmdId) : State :=
  let e := entry.toNat
  guarded s c (entryChecks s h e [.staged, .feeding, .decoding, .finished, .faulted]) fun s =>
    let s := strikeEntry s e false
    setEntry s e { entryOf s e with rel := some c }

def applyCancel (h : CmdHdr) (entry : W16) (s : State) (c : CmdId) : State :=
  let e := entry.toNat
  guarded s c (entryChecks s h e [.staged, .feeding, .decoding, .finished, .faulted]) fun s =>
    let live := [EntSt.staged, .feeding, .decoding].contains (entryOf s e).st
    let s := if live then noteEnd (finishEntry (endFeed s e stAborted) e 6) e else s
    conclude s c stOk

def applySetPrio (h : CmdHdr) (entry : W16) (prio : BitVec 3) (s : State) (c : CmdId) : State :=
  let e := entry.toNat
  guarded s c (entryChecks s h e [.staged, .feeding, .decoding]) fun s =>
    conclude (setEntry s e { entryOf s e with prio := prio.toNat }) c stOk

def applySetDeadline (h : CmdHdr) (entry : W16) (lateAct : BitVec 2) (dlNext : W16) (dlEnd : BitVec 48) (s : State)
    (c : CmdId) : State :=
  let e := entry.toNat
  let k := bothChecks (entryChecks s h e [.staged, .feeding, .decoding]) { badField := lateAct = 3 }
  guarded s c k fun s =>
    let x := { entryOf s e with lateAct := lateAct.toNat, dlNext := dlNext.toNat, dlEnd := dlEnd.toNat, lateSeen := false }
    conclude (setEntry s e { x with nextDue := nextDue x }) c stOk

/-- Sets ABSENT in the words of a run. -/
def markAbsent (ws : List Nat) (i n : Nat) : List Nat :=
  ws.zipIdx.map fun (w, j) => if i ≤ j && j < i + n then setBit w 20 true else w

/-- With a COUNT of 0 the INDEX is not held against the list (R12, R182: the model's choice, log entry 102). -/
def applyPageEdit (h : CmdHdr) (entry : W16) (index count : BitVec 10) (s : State) (c : CmdId) : State :=
  let e := entry.toNat
  let i := index.toNat
  let n := count.toNat
  let x := entryOf s e
  let k := bothChecks (entryChecks s h e [.staged, .feeding, .decoding, .finished])
    { limit := 511 < i || 512 < n
      extent := n ≠ 0 && (x.pages.length < i + n || x.lenCommit < (pageEnds 0 x.pages).getD (i + n - 1) 0) }
  guarded s c k fun s =>
    if n = 0 then conclude s c stOk
    else
      let s := dropEdit s e
      let x := entryOf s e
      let s := plWrite s x (1 - x.plSel) (markAbsent (plRead s x x.plSel x.pages.length) i n)
      conclude (setEntry s e { x with edit := 2, updCnt := (entryOf s e).updCnt }) c stDeferred

def applyFence (h : CmdHdr) (s : State) (c : CmdId) : State :=
  guarded s c { denied := unbound s h.fn, key := carried s h.fn none, badField := h.rsv } fun s =>
    { s with fences := s.fences ++ [c] }

/-! ### The commands -/

def execAdmitEntry (h : CmdHdr) (entry : W16) (img : Option AdmitImage) (ue : List Nat) (s : State) : Out :=
  act s fun s => submit s h (.admitEntry h entry img ue) 0x01 (some entry.toNat) (applyAdmit h entry img ue)

def execFeed (h : CmdHdr) (entry : W16) (ptr : W64) (len : BitVec 22) (go : Bool) (newState : W16) (setState : Bool)
    (s : State) : Out :=
  act s fun s => submit s h (.feed h entry ptr len go newState setState) 0x02 (some entry.toNat)
    (applyFeed h entry ptr len go newState setState)

def execDraft (h : CmdHdr) (entry : W16) (count : BitVec 4) (toks : List (BitVec 18)) (s : State) : Out :=
  act s fun s => submit s h (.draft h entry count toks) 0x03 (some entry.toNat) (applyDraft h entry count toks)

def execRelease (h : CmdHdr) (entry : W16) (s : State) : Out :=
  act s fun s => submit s h (.release h entry) 0x04 (some entry.toNat) (applyRelease h entry)

def execCancel (h : CmdHdr) (entry : W16) (s : State) : Out :=
  act s fun s => submit s h (.cancel h entry) 0x05 (some entry.toNat) (applyCancel h entry)

def execSetPrio (h : CmdHdr) (entry : W16) (prio : BitVec 3) (s : State) : Out :=
  act s fun s => submit s h (.setPrio h entry prio) 0x06 (some entry.toNat) (applySetPrio h entry prio)

def execSetDeadline (h : CmdHdr) (entry : W16) (lateAct : BitVec 2) (dlNext : W16) (dlEnd : BitVec 48) (s : State) : Out :=
  act s fun s => submit s h (.setDeadline h entry lateAct dlNext dlEnd) 0x07 (some entry.toNat)
    (applySetDeadline h entry lateAct dlNext dlEnd)

def execPageEdit (h : CmdHdr) (entry : W16) (index count : BitVec 10) (s : State) : Out :=
  act s fun s => submit s h (.pageEdit h entry index count) 0x08 (some entry.toNat) (applyPageEdit h entry index count)

def execFence (h : CmdHdr) (s : State) : Out :=
  act s fun s => submit s h (.fence h) 0x09 none (applyFence h)

end Sys2Proof.Machine
end

