-- ==== Sys2Proof/Machine/Packets.lean ====
section
/-! DEFINITION. Packets of the links (14): topology, routes and virtual channels (R368, R369), and sending a packet on a port. -/
namespace Sys2Proof.Machine

/-! ### Topology -/

def topoX (s : State) : Nat := rd0 s LNK_TOPO_NX_M1 + 1
def topoY (s : State) : Nat := rd0 s LNK_TOPO_NY_M1 + 1
def ringMode (s : State) : Bool := flag s LNK_TOPO_RING

/-- This device's index (R368). -/
def devIndex (s : State) : Nat := topoX s * rd0 s LNK_TOPO_Y + rd0 s LNK_TOPO_X

def devices (s : State) : List Nat := List.range (topoX s * topoY s)

/-! ### Ports -/

def lnkState (s : State) (port : Nat) : Nat := rd0 s (inst LNK_STS_STATE port)
def lnkActive : Nat := 5
def lnkFailed : Nat := 7
def portOf (s : State) (port : Nat) : PortSt := mapGetD s.portSt port portZero
def setPort (s : State) (port : Nat) (x : PortSt) : State := { s with portSt := mapSet portZero s.portSt port x }

/-- Flits of a packet: header of 32 bytes, data, and the 16-byte tag, 248 bytes a flit (R363, R364). -/
def flitsOf (p : Packet) : Nat := ceilDiv (32 + p.data.length + 16) 248

/-! ### Routes (R369) -/

/-- Direction in a dimension of size `n`: none when it is skipped, true for positive. -/
def dimDir (n a b : Nat) : Option Bool :=
  let d := (b + n - a) % n
  if d = 0 then none else some (d ≤ n - d)

/-- A packet whose ADDR bit 12 chooses between the X and Y ports of a ring (R368). -/
def splitsRing (p : Packet) : Bool := (p.op = 1 || p.op = 3 || p.op = 6) && bit p.addr.toNat 12

/-- Port that a packet at this device leaves by; none when it is at its destination. -/
def routePort (s : State) (p : Packet) : Option Nat :=
  let n := topoX s
  match dimDir n (rd0 s LNK_TOPO_X) (p.dst.toNat % n) with
  | some pos => some ((if pos then 0 else 1) + (if ringMode s && splitsRing p then 2 else 0))
  | none => (dimDir (topoY s) (rd0 s LNK_TOPO_Y) (p.dst.toNat / n)).map fun pos => if pos then 2 else 3

/-- The port lies in the X dimension: X ports, and every port of a ring. -/
def inX (s : State) (port : Nat) : Bool := port < 2 || ringMode s

/-- The link out of `port` crosses its dimension's dateline. -/
def dateline (s : State) (port : Nat) : Bool :=
  let n := if inX s port then topoX s else topoY s
  let a := if inX s port then rd0 s LNK_TOPO_X else rd0 s LNK_TOPO_Y
  if port % 2 = 0 then a = n - 1 else a = 0

/-- DL on the outgoing link; `from_` is the port of arrival, none at the origin. -/
def nextDl (s : State) (from_ : Option Nat) (dl : Bool) (port : Nat) : Bool :=
  dateline s port || (match from_ with | some q => inX s q = inX s port && dl | none => false)

/-- Virtual channel of a packet. -/
def vcOf (p : Packet) : Nat := 2 * p.tc.toNat + p.dl.toNat

/-! ### Sending -/

/-- Puts a packet on a port. A FAILED port discards it (R362). A port that is not ACTIVE keeps it until it is (R361). -/
def putPort (s : State) (port : Nat) (p : Packet) : State :=
  if lnkState s port = lnkFailed then
    raise (bump0 s (inst LNK_DROP port) 1)
      { cls := clFrame, reason := 0x305, type := 0x21, inst := port, d0 := port + p.dst.toNat * 16 }
  else
    let x := portOf s port
    let last := (x.txSeq + flitsOf p - 1) % 4096
    let used := mapSet 0 x.credits (vcOf p) (mapGetD x.credits (vcOf p) 0 + flitsOf p)
    let s := setPort s port { x with txSeq := (last + 1) % 4096, unacked := x.unacked ++ [(last, p)], credits := used }
    if lnkState s port = lnkActive then send (bump0 s (inst LNK_TX_FLITS port) (flitsOf p)) (.packet port p) else s

/-- The CTR of the next packet under a key (R372). -/
def takeCtr (s : State) (key : Nat) : Nat × State :=
  let n := mapGetD s.trust.ctr key 0
  (n, { s with trust := { s.trust with ctr := mapSet 0 s.trust.ctr key (n + 1) } })

/-- Sends a packet of this device's own by its route, under the tenant's link key or the torus key. -/
def originate (s : State) (p : Packet) : State :=
  match routePort s p with
  | none => s
  | some port =>
    let (n, s) := takeCtr s (if p.keySel then 32 else p.tenant.toNat)
    let me := BitVec.ofNat 4 (devIndex s)
    putPort s port { p with src := me, encId := me, ctr := BitVec.ofNat 64 n, dl := nextDl s none false port, tagOk := true }

/-- A single-flit CONTROL packet under the torus key (R372). -/
def control (op dst : Nat) (data : Bytes) : Packet :=
  { op := BitVec.ofNat 4 op, dst := BitVec.ofNat 4 dst, src := 0, tc := 0, tenant := 0, keySel := true, enc := false, fin := true,
    redOp := 0, lenM1 := BitVec.ofNat 12 (data.length - 1), members := 0, xfer := 0, addr := 0, encId := 0, outAddr := 0,
    ctr := 0, data := data, tagOk := true, dl := false }

/-- A port carries flits, or will once it has retrained. -/
def trained (s : State) (port : Nat) : Bool := lnkState s port = lnkActive

/-- The leader's beacon copies (R375), one on every trained port: BUDGET in MEMBERS [3:0], FAN in bit 4. -/
def beaconBudgets (s : State) : List (Nat × Nat × Bool) :=
  let nx := topoX s
  let ny := topoY s
  [(0, nx / 2, true), (1, nx - 1 - nx / 2, true), (2, ny / 2, false), (3, ny - 1 - ny / 2, false)]

def beaconData (tick frame period : Nat) (opens : Bool) : Bytes :=
  leBytes 8 tick ++ leBytes 8 frame ++ leBytes 8 (period + opens.toNat * 2 ^ 17)

/-- One beacon copy on a port, no route taken. -/
def beaconCopy (s : State) (port budget : Nat) (fan : Bool) (p : Packet) : State :=
  if trained s port then
    putPort s port { p with members := BitVec.ofNat 16 (budget + fan.toNat * 16), dl := nextDl s none false port }
  else s

/-- The leader sends one beacon on every trained port (R32). -/
def sendBeacons (s : State) (opens : Bool) : State :=
  let (n, s) := takeCtr s 32
  let me := BitVec.ofNat 4 (devIndex s)
  let p := { control 7 0 (beaconData (rd0 s FRM_TICK) (rd0 s FRM_FRAME) (rd0 s FRM_PERIOD) opens) with
    src := me, encId := me, ctr := BitVec.ofNat 64 n }
  forEach (beaconBudgets s) s fun s b => beaconCopy s b.1 b.2.1 b.2.2 p

end Sys2Proof.Machine
end

