-- ==== Sys2Proof/Machine/Training.lean ====
section
/-! DEFINITION. Link training (14): the state machine of R357 as the table in force, lane sets (R358), lane failures (R359) and the
commands that write LNK_CTL (R360). -/
namespace Sys2Proof.Machine

/-- The default training table (R357) with its actions and timeouts (R449). -/
def defaultTraining : List MachRec :=
  [⟨0, 1, 1, 0, 0⟩, ⟨1, 2, 2, 0, 0⟩, ⟨1, 3, 1, 1, 100000⟩, ⟨2, 4, 3, 2, 20000⟩, ⟨3, 5, 4, 3, 0⟩, ⟨3, 3, 6, 5, 5000⟩,
   ⟨4, 6, 5, 4, 0⟩, ⟨4, 7, 7, 0, 0⟩, ⟨4, 3, 6, 0, 5000⟩, ⟨5, 8, 6, 0, 0⟩, ⟨6, 9, 3, 0, 0⟩, ⟨6, 10, 7, 0, 0⟩,
   ⟨0xFF, 11, 0, 0, 0⟩]

def trainingTable (s : State) : List MachRec := (mapGet s.cfg.mach 2).getD defaultTraining

/-- The record for a state and an event; a record of the state itself is used before one of 0xFF (R449). -/
def machLookup (t : List MachRec) (state event : Nat) : Option MachRec :=
  match t.find? (fun r => r.state = state && r.event = event) with
  | some r => some r
  | none => t.find? (fun r => r.state = 0xFF && r.event = event)

/-- What an event brings (R449's actions take it). -/
structure TrainIn where
  event : Nat
  lanes : Nat := 0
  rtt : Nat := 0
  peer : Nat := 0
  reversed : Bool := false

def laneMask : Nat := 2 ^ 48 - 1

/-- Good lanes (R358): converged in EQ and not marked bad since. -/
def goodLanes (x : PortSt) : Nat := x.converged &&& (laneMask - x.badLanes)

/-- Width code, first lane and lanes of the set that R358 chooses from a usable mask; none when no quarter qualifies. -/
def chooseLanes (m : Nat) : Option (Nat × Nat × Nat) :=
  let all := fun a n => (upto a n).all (bit m)
  if all 0 48 then some (3, 0, 48)
  else if all 0 24 then some (2, 0, 24)
  else if all 24 24 then some (2, 24, 24)
  else ([0, 12, 24, 36].find? (fun a => all a 12)).map fun a => (1, a, 12)

/-- The sum of the half round trips, as their own devices hold them in LNK_RTT, of `n` links that this device does not end: each is
a free value of that register's width (log entry 3). -/
def drawHalves : Nat → State → Nat × State
  | 0, s => (0, s)
  | n + 1, s =>
    let (v, s) := draw s
    let (k, s) := drawHalves n s
    (v.toNat % 2 ^ 20 + k, s)

/-- Compensation of R33 for a beacon that arrives on `port` after `hops` forwarding hops: half the round trip of this device's
link, those of the `hops` links before it, and 40 ns a hop. -/
def recompensate (s : State) (port hops : Nat) : State :=
  let (k, s) := drawHalves hops s
  wr0 s FRM_BEACON_COMP_PS (rd0 s (inst LNK_RTT port) + k + hops * 40000)

/-- The flits that waited are sent again in order. -/
def resend (s : State) (port : Nat) : State :=
  forEach (portOf s port).unacked s fun s u => send (bump0 s (inst LNK_TX_FLITS port) (flitsOf u.2)) (.packet port u.2)

/-- A port enters FAILED: the packets that wait for it are discarded (R362). -/
def failPort (s : State) (port : Nat) : State :=
  let n := (portOf s port).unacked.length
  let s := setPort s port { portOf s port with unacked := [] }
  if n = 0 then s
  else raise (bump0 s (inst LNK_DROP port) n) { cls := clFrame, reason := 0x305, type := 0x21, inst := port, d0 := port }

/-- An action of the table (R449). -/
def trainAction (s : State) (port action : Nat) (i : TrainIn) : State :=
  let x := portOf s port
  match action with
  | 2 => setPort s port { x with converged := i.lanes, badLanes := laneMask - i.lanes }
  | 3 =>
    match chooseLanes (goodLanes x &&& i.lanes) with
    | none => s
    | some (w, _, _) =>
      let old := rd0 s (inst LNK_STS_WIDTH port)
      let s := if w < old then bump0 s (inst LNK_DEGRADE_CNT port) 1 else s
      wr0 (wr0 s (inst LNK_STS_WIDTH port) w) (inst LNK_LANES port) (goodLanes x &&& i.lanes)
  | 4 =>
    let s := wr0 (wr0 s (inst LNK_RTT port) i.rtt) (inst LNK_STS_PEER port) i.peer
    let s := wr0 s (inst LNK_STS_REVERSED port) i.reversed.toNat
    if rd0 s FRM_BEACON_PORT = port && !leader s then recompensate s port (rd0 s FRM_BEACON_HOPS) else s
  | 5 => setPort s port { x with badLanes := x.badLanes ||| i.lanes }
  | _ => s

/-- What entering a state does. -/
def enterTraining (s : State) (port st : Nat) : State :=
  if st = lnkActive then resend s port
  else if st = lnkFailed then failPort s port
  else if st = 0 then wr0 (wr0 s (inst LNK_STS_WIDTH port) 0) (inst LNK_LANES port) 0
  else if st = 2 then wr0 s AGE_STS_EQ_PENDING (setBit (rd0 s AGE_STS_EQ_PENDING) port false)
  else s

/-- A LOCK whose lane sets all fail gives NO_WIDTH and not LOCK (R358). -/
def lockHolds (s : State) (port : Nat) (r : MachRec) (i : TrainIn) : Bool :=
  r.action ≠ 3 || (chooseLanes (goodLanes (portOf s port) &&& i.lanes)).isSome

/-- An event of a port; an unlisted pair leaves the state (R357). Retrains and DETECT timeouts are counted. -/
def trainEvent (s : State) (port : Nat) (i : TrainIn) : State :=
  if 4 ≤ port then s else
  match machLookup (trainingTable s) (lnkState s port) i.event with
  | none => s
  | some r =>
    if !lockHolds s port r i then s
    else
      let s := if r.action = 1 || r.next = 6 then bump0 s (inst LNK_RETRAIN_CNT port) 1 else s
      let s := trainAction s port r.action i
      enterTraining (wr0 s (inst LNK_STS_STATE port) r.next) port r.next

/-- LNK_CTL.EN takes a value. -/
def setLnkEn (s : State) (port : Nat) (v : Bool) : State :=
  let old := flag s (inst LNK_CTL_EN port)
  let s := wr0 s (inst LNK_CTL_EN port) v.toNat
  if v = old then s else trainEvent s port { event := if v then 1 else 11 }

/-- RETRAIN (R360): a full training from DETECT, every lane tried again. -/
def startRetrain (s : State) (port : Nat) : State :=
  if flag s (inst LNK_CTL_EN port) then
    let s := setPort s port { portOf s port with badLanes := 0, converged := 0 }
    wr0 s (inst LNK_STS_STATE port) 1
  else s

def execTrainEnable (port : Nat) (s : State) : Out := act s fun s => if port < 4 then setLnkEn s port true else s

def execTrainDisable (port : Nat) (s : State) : Out := act s fun s => if port < 4 then setLnkEn s port false else s

def execRetrain (port : Nat) (s : State) : Out :=
  act s fun s =>
    if !(port < 4) then s
    else if runSet s then dropWrite s 0 (0x30000 + port * 0x1000) stDenied (inst LNK_CTL_RETRAIN port)
    else startRetrain s port

def execPeerSeen (port : Nat) (lanes : BitVec 48) (s : State) : Out :=
  act s fun s => if 12 ≤ popcount 48 lanes.toNat then trainEvent s port { event := 2 } else s

def execTrainTimeout (port : Nat) (unlocked : BitVec 48) (s : State) : Out :=
  act s fun s => trainEvent s port { event := 3, lanes := unlocked.toNat }

def execEqDone (port : Nat) (converged : BitVec 48) (s : State) : Out :=
  act s fun s => trainEvent s port { event := 4, lanes := converged.toNat }

def execTrainLock (port : Nat) (peerMask : BitVec 48) (s : State) : Out :=
  act s fun s => trainEvent s port { event := 5, lanes := peerMask.toNat }

def execConfigOk (port rttPs : Nat) (peer : BitVec 4) (reversed : Bool) (s : State) : Out :=
  act s fun s => trainEvent s port { event := 6, rtt := rttPs, peer := peer.toNat, reversed := reversed }

def execMismatch (port : Nat) (s : State) : Out := act s fun s => trainEvent s port { event := 7 }

/-- A lane of an ACTIVE port fails: it is marked bad, and the port retrains (R359). -/
def execLaneFail (port lane : Nat) (s : State) : Out :=
  act s fun s =>
    if lnkState s port = lnkActive then
      let x := portOf s port
      trainEvent (setPort s port { x with badLanes := setBit x.badLanes (lane % 48) true }) port { event := 8 }
    else s

def execWidthOk (port : Nat) (s : State) : Out := act s fun s => trainEvent s port { event := 9 }

def execNoWidth (port : Nat) (s : State) : Out := act s fun s => trainEvent s port { event := 10 }

end Sys2Proof.Machine
end

