-- ==== Sys2Proof/Machine/Objects.lean ====
section
/-! DEFINITION. Objects (11): mapping, claims, unmapping, the migration machine and its engines, strikes of stack storage. -/
namespace Sys2Proof.Machine

/-! ### Zeroing and strikes (R89, R241, R283, R295) -/

/-- ZERO of a row by the hub's row-engine commands (R240). -/
def hubZero (s : State) (key row : Nat) : State := rowZero (activate s key row) key row

/-- Zeroes runs of rows, a ZERO each (R241): (bank key, first row, rows). -/
def zeroRuns (s : State) (runs : List (Nat × Nat × Nat)) : State :=
  forEach runs s fun s r => forEach (upto r.2.1 r.2.2) s fun s row => hubZero s r.1 row

/-! ### Staging rows (R209, R211) -/

def stagingOf (s : State) (key : Nat) : Staging := mapGetD s.staging key stagingZero

/-- Rows of a bank's staging area have been written. -/
def noteStaged (s : State) (key : Nat) (rows : List Nat) : State :=
  let x := stagingOf s key
  { s with staging := mapSet stagingZero s.staging key { x with rows := x.rows ++ rows.filter (!x.rows.contains ·) } }

/-- The staging rows written since the tag was set are zeroed, and the bank takes a new tag. -/
def retagStaging (s : State) (key : Nat) (tag : Option Nat) : State :=
  let rows := (stagingOf s key).rows
  let s := zeroRuns (bump0 s (inst BNK_CLEAR_CNT (bankStack key)) rows.length) (rows.map fun r => (key, r, 1))
  { s with staging := mapSet stagingZero s.staging key ⟨tag, []⟩ }

/-- Staging rows take data of a tenant: those of another tenant are zeroed first. -/
def tagStaging (s : State) (key tenant : Nat) : State :=
  if (stagingOf s key).tag = some tenant then s else retagStaging s key (some tenant)

/-- The strike of a revoked tenant zeroes the staging rows tagged with it and clears the collectors' inboxes. -/
def clearStaging (s : State) (t : Nat) : State :=
  let s := forEach ((s.staging.filter fun p => p.2.tag = some t).map (·.1)) s fun s k => retagStaging s k none
  { s with colls := s.colls.map fun p => (p.1, { p.2 with inbox := [] }) }

/-- A strike's ZERO of a row; a memory channel in processor mode holds it (R213, R241). -/
def strikeRow (a : State × List (Nat × Nat)) (key row : Nat) : State × List (Nat × Nat) :=
  if chanHeld a.1 key then (hold a.1 key (.zero (.hub (keyBank key) row)), a.2 ++ [(key, row)]) else (hubZero a.1 key row, a.2)

/-- The rows `now` of a strike are zeroed, or held, and count for its tenant; `later` remain. -/
def runStrike (s : State) (x : Strike) (now later : List (Nat × Nat × Nat)) : State × Strike :=
  let (s, held) := forEach now (s, x.held) fun a r => forEach (upto r.2.1 r.2.2) a fun a row => strikeRow a r.1 row
  let z := mapGetD s.plan.zeroed x.tenant 0 + rowCount now
  ({ s with plan := { s.plan with zeroed := mapSet 0 s.plan.zeroed x.tenant z } }, { x with rows := later, held := held })

/-- The ZERO of a row that a memory channel held has been issued. -/
def rowIssued (s : State) (key row : Nat) : State :=
  { s with strikes := s.strikes.map fun x => { x with held := x.held.filter (· ≠ (key, row)) } }

/-- Idle cycles of banks, in rows that each can zero: what a bank that `left` does not name has, and what the others have left. -/
structure IdleRows where
  all : Nat
  left : Map Nat

/-- What each bank can zero of these runs in its idle cycles, what is left of the runs, and of the cycles. -/
def takeIdle (b : IdleRows) (runs : List (Nat × Nat × Nat)) : List (Nat × Nat × Nat) × List (Nat × Nat × Nat) × IdleRows :=
  runs.foldl (fun a r =>
    let n := (mapGet a.2.2.left r.1).getD a.2.2.all
    let c := min n r.2.2
    (if c = 0 then a.1 else a.1 ++ [(r.1, r.2.1, c)],
      if c = r.2.2 then a.2.1 else a.2.1 ++ [(r.1, r.2.1 + c, r.2.2 - c)],
      { a.2.2 with left := mapPut a.2.2.left r.1 (n - c) })) ([], [], b)

/-- The strikes that `p` selects, in order: every bank zeroes its own pending rows in its own idle cycles (R295). -/
def spendIdle (p : Strike → Bool) : IdleRows → List Strike → State → State × List Strike
  | _, [], s => (s, [])
  | b, x :: xs, s =>
    if p x then
      let (now, later, b) := takeIdle b x.rows
      let (s, y) := runStrike s x now later
      let (s, ys) := spendIdle p b xs s
      (s, y :: ys)
    else
      let (s, ys) := spendIdle p b xs s
      (s, x :: ys)

def strikeIdle (s : State) (p : Strike → Bool) (b : IdleRows) : State :=
  let (s, xs) := spendIdle p b s.strikes s
  { s with strikes := xs }

/-- Spends `n` rows on the strikes that `p` selects, in order. -/
def spendRows (p : Strike → Bool) : Nat → List Strike → State → State × List Strike
  | _, [], s => (s, [])
  | n, x :: xs, s =>
    if p x && n ≠ 0 then
      let c := min n (rowCount x.rows)
      let (now, later) := splitRows n x.rows
      let (s, y) := runStrike s x now later
      let (s, ys) := spendRows p (n - c) xs s
      (s, y :: ys)
    else
      let (s, ys) := spendRows p n xs s
      (s, x :: ys)

def strikeSome (s : State) (p : Strike → Bool) (n : Nat) : State :=
  let (s, xs) := spendRows p n s.strikes s
  { s with strikes := xs }

/-- Board granules of an object. -/
def objBoard (s : State) (o : Nat) : List Nat :=
  (s.xlat.filter (fun e => e.2.obj = o && e.2.loc ≠ .none && e.2.bcopy)).map (·.2.bg)

/-- Unmaps an object's granules from the translation table. -/
def unmapGranules (s : State) (o : Obj) : State :=
  { s with xlat := s.xlat.filter (fun e => !(o.base / 2 ^ 21 ≤ e.1 && e.1 < o.base / 2 ^ 21 + o.size)) }

/-- What a finished strike frees, at a Wrap of a frame that does not fail: an entry becomes FREE and its RELEASE concludes; an
object's board pages, which an access may have written since, are zero-state again (R283), it becomes FREE and its OBJ_UNMAP concludes;
page runs and bands return (R89, R185, R295). -/
def concludeStrike (s : State) (x : Strike) : State :=
  match x.owner with
  | .entry e =>
    let s := match (entryOf s e).rel with | some c => conclude s c stOk | none => s
    setEntry s e { entryZero with updCnt := (entryOf s e).updCnt }
  | .object o =>
    let s := match (objOf s o).unmap with | some c => conclude s c stOk | none => s
    let s := forEach (objBoard s o) s boardZero
    let s := setObj (unmapGranules s (objOf s o)) o objZero
    if s.boardRetiring = [] then s else settleBoard s
  | .granule key g => setGran s key g .retired
  | _ => s

/-- Every row of the strike is zeroed. -/
def strikeOver (x : Strike) : Bool := x.rows = [] && x.held = []

/-- Strikes whose rows are all zeroed conclude. -/
def concludeStrikes (s : State) : State :=
  let fin := s.strikes.filter strikeOver
  let s := { s with strikes := s.strikes.filter fun x => !strikeOver x }
  settleRetiring (forEach fin s concludeStrike)

/-! ### Copies of the migration engines (R299, R300) -/

/-- Cells of a memory in a range. -/
def cellsIn (m : Memory) (a n : Nat) : Memory := m.filter fun c => a ≤ c.1 && c.1 < a + n

/-- Where byte `i` of granule `k` of an object lies in the stacks. -/
def granByte (s : State) (o : Obj) (k i : Nat) : Nat :=
  let e := xentOf s (o.base / 2 ^ 21 + k)
  let l := stackLoc o { e with sg := o.bands.getD (k / bandBanks o) 0 } (k * 2 ^ 21 + i)
  rowAddr s l.key l.row l.byte

/-- Fills of a board granule complete before its pages are read (R342). -/
def settleFills (s : State) (bg : Nat) : State := forEach (upto (32 * bg) 32) s fillDone

/-- Board granule to stack rows: the rows are zeroed, then every nonzero byte is placed. -/
def copyUp (s : State) (o : Obj) (k bg : Nat) : State :=
  let s := settleFills s bg
  let s := bump0 s BDM_RD_B (65536 * ((upto (32 * bg) 32).filter (fun p => s.boardUsed.contains p)).length)
  let cells := cellsIn s.board (bg * 2 ^ 21) (2 ^ 21)
  let s := forEach (List.range 2048) s fun s r => { s with mem := memZero s.mem (granByte s o k (1024 * r)) 1024 }
  forEach cells s fun s c => { s with mem := memWrite s.mem (granByte s o k (c.1 - bg * 2 ^ 21)) [c.2] }

/-- Stack rows to the board granule: a whole-granule write, which clears its zero-state bits (R342). -/
def copyDown (s : State) (o : Obj) (k bg : Nat) : State :=
  let data := (List.range 2048).flatMap fun r => memReadN s.mem (granByte s o k (1024 * r)) 1024
  let ps := upto (32 * bg) 32
  let s := { s with board := memWrite s.board (bg * 2 ^ 21) data
                    boardUsed := s.boardUsed.filter (fun p => !ps.contains p) ++ ps
                    boardFilling := s.boardFilling.filter (fun p => !ps.contains p) }
  bump0 s BDM_WR_B (2 ^ 21)

/-- Some page of a board granule is not in zero-state: a read of it reaches the pins (R341). -/
def boardLive (s : State) (bg : Nat) : Bool :=
  (upto (32 * bg) 32).any fun p => s.boardUsed.contains p || s.boardFilling.contains p

/-- A promotion copy that meets an uncorrectable board read leaves its granule at its source, to be tried again in a later free interval;
the second failure raises BOARD_UE (R339). -/
def promotionFails (s : State) (n gran bg : Nat) : State :=
  let o := objOf s n
  let s := setObj (boardUncorr s bg) n { o with failures := o.failures + 1, pass := min o.pass gran }
  if o.failures + 1 ≠ 2 then s
  else raise s { cls := if o.shared then clFrame else clTenant, reason := 0x201, type := 0x09
                 tenant := if o.shared then none else some o.tenant, d0 := bg * 2 ^ 32, d1 := n }

/-- What reads of a copy's source corrected: link ECC of a board granule (R339), the code of protected rows (R235). -/
def migCorrected (s : State) (o : Obj) (r : MigRun) : State :=
  if r.up then bump0 s BDM_LECC_CORR r.corr
  else if o.prot then s
  else
    let l := stackLoc o { xentOf s (o.base / 2 ^ 21 + r.gran) with sg := o.bands.getD (r.gran / bandBanks o) 0 } (r.gran * 2 ^ 21)
    forEach (List.range r.corr) s fun s _ => correctedAt s l.key l.row

/-- A promotion copy ends: the rows of the band hold the granule, LOC is STACK and DIRTY clear at one commit. -/
def commitUp (s : State) (r : MigRun) : State :=
  let o := objOf s r.obj
  let k := o.base / 2 ^ 21 + r.gran
  let e := { xentOf s k with copying := false }
  let live := boardLive s e.bg
  let s := if live then migCorrected s o r else s
  if r.ue && live then promotionFails (setXent s k e) r.obj r.gran e.bg
  else
    let s := bump0 (copyUp s o r.gran e.bg) MIG_PROMO_CNT 1
    setObj (setXent s k { e with loc := .stack, sg := o.bands.getD (r.gran / bandBanks o) 0, dirty := false }) r.obj { o with failures := 0 }

/-- A demotion copy ends: a DIRTY granule has been written back before LOC is BOARD; a clean one commits without copying. An
uncorrectable read of protected rows does not stop it; a byte of what lands is then open, and a free byte stands for it (log entry 3). -/
def commitDown (s : State) (r : MigRun) : State :=
  let o := objOf s r.obj
  let k := o.base / 2 ^ 21 + r.gran
  let e := { xentOf s k with copying := false }
  let l := stackLoc o { e with sg := o.bands.getD (r.gran / bandBanks o) 0 } (r.gran * 2 ^ 21)
  let s := if e.dirty then migCorrected s o r else s
  let s := bump0 (if e.dirty then copyDown s o r.gran e.bg else s) MIG_DEMO_CNT 1
  let s := setXent s k { e with loc := .board, dirty := false }
  if r.ue && e.dirty && !o.prot then
    let (v, s) := draw s
    uncorrectableRead (boardPut s (e.bg * 2 ^ 21) (BitVec.ofNat 8 v.toNat)) l.key l.row
  else s

/-- BUSY of an engine. -/
def migBusy (engine : Nat) : Fld := if engine = 0 then MIG_STS_BUSY0 else MIG_STS_BUSY1

/-- The copy of an engine commits. -/
def commitCopy (s : State) (engine : Nat) : State :=
  match mapGet s.migs engine with
  | none => s
  | some r =>
    let s := wr0 { s with migs := mapDel s.migs engine } (migBusy engine) 0
    if r.up then commitUp s r else commitDown s r

/-- Unified granule that a copy moves. -/
def migGran (s : State) (r : MigRun) : Nat := (objOf s r.obj).base / 2 ^ 21 + r.gran

/-- A write that meets a granule under copy stalls until the copy commits, and then goes to the new location (R300). -/
def stallWrite (s : State) (addr n : Nat) : State :=
  let met := s.migs.filter fun m => n ≠ 0 && addr / 2 ^ 21 ≤ migGran s m.2 && migGran s m.2 ≤ (addr + n - 1) / 2 ^ 21
  if met = [] then s else forEach (met.map (·.1)) (bump0 s MIG_STALL_CNT 1) commitCopy

/-- A write of the unified range that no plan contains: it waits for copies and fills, and its board bytes are counted. -/
def putUnified (s : State) (addr : Nat) (bs : Bytes) : State :=
  let s := stallWrite s addr bs.length
  uWrite (countWrite s addr bs.length) addr bs

/-- Copies of an object stop, and leave their granules where they are (R298). -/
def dropCopies (s : State) (o : Nat) : State :=
  forEach (s.migs.filter fun m => m.2.obj = o) s fun s m =>
    let k := migGran s m.2
    setXent (wr0 { s with migs := mapDel s.migs m.1 } (migBusy m.1) 0) k { xentOf s k with copying := false }

/-! ### Unmapping (R295) -/

/-- The unified address here that a peer transfer names, when it names one. -/
def xferLocal (x : PeerXfer) : Option Nat :=
  if x.write then (if x.desc.srcSpace = 1 then some x.desc.srcAddr.toNat else none)
  else if x.desc.dstSpace = 1 then some x.desc.dstAddr.toNat
  else none

/-- A peer transfer names the object on this device (R295). -/
def xferNames (s : State) (o : Nat) (x : PeerXfer) : Bool := (xferLocal x).any fun a => objAt s a = some o

/-- Tenant whose key slot a peer transfer carries (R313). -/
def xferTenant (s : State) (x : PeerXfer) : Option Nat :=
  if x.fn ≠ 0 then tenantOf s x.fn
  else
    match (xferLocal x).bind (objAt s) with
    | some o => if (objOf s o).shared then none else some (objOf s o).tenant
    | none => none

/-- Pieces of a range at a remote address: at most 4,096 bytes, none across a 4 KiB boundary (R365). -/
def cutPieces (remote len : Nat) : Nat → Nat → List (Nat × Nat)
  | 0, _ => []
  | fuel + 1, off =>
    if len ≤ off then []
    else
      let n := min (len - off) (4096 - (remote + off) % 4096)
      (off, n) :: cutPieces remote len fuel (off + n)

def piecesOf (remote len : Nat) : List (Nat × Nat) := cutPieces remote len (len / 4096 + 2) 0

/-- A BULK packet of a peer transfer under the key slot that it carries. -/
def bulk (s : State) (x : PeerXfer) (op addr out : Nat) (fin : Bool) (data : Bytes) : Packet :=
  let t := xferTenant s x
  { control op x.desc.peer.toNat data with
    tc := 2, tenant := BitVec.ofNat 5 (t.getD 0), keySel := t.isNone, enc := op = 1, fin := fin
    xfer := BitVec.ofNat 12 x.engine, addr := BitVec.ofNat 43 addr, outAddr := BitVec.ofNat 43 out }

/-- WRITEs of the pieces with the bytes that `data` gives; the last one carries FIN. -/
def sendWrites (s : State) (x : PeerXfer) (data : Nat → Nat → Bytes) (ps : List (Nat × Nat)) : State :=
  forEach ps.zipIdx s fun s p =>
    originate s (bulk s x 1 (x.desc.dstAddr.toNat + p.1.1) 0 (p.2 + 1 = ps.length) (data p.1.1 p.1.2))

/-- Bytes that a peer transfer has moved. -/
def xferMoved (x : PeerXfer) : Nat := x.pieces.foldl (fun n p => n + p.2) 0

/-- What a descriptor's end records (R312): outcome, failing blocks or units, the first of them, bytes written. -/
structure DescEnd where
  status : Nat
  damaged : Nat := 0
  firstBad : Option Nat := none
  outLen : Nat := 0

/-- A descriptor ends (R310): its completion bytes are written, HEAD advances, DMA_DONE follows if EVENT is set. FIRST_BAD of a
descriptor with no failing unit is open and a free value (log entry 3). -/
def finishDesc (s : State) (fn q engine : Nat) (d : DmaDesc) (e : DescEnd) : State :=
  let n := rd s fn (xqFld XPD_Q_HEAD q)
  let at_ := rd s fn (xqFld XPD_Q_BASE q) + 64 * (n % 2 ^ rd s fn (xqFld XPD_Q_SIZE q))
  let (v, s) := draw s
  let first := min (e.firstBad.getD (v.toNat % 2 ^ 32)) (2 ^ 32 - 1)
  let w := e.status + 2 ^ 8 + min e.damaged 65535 * 2 ^ 16 + first * 2 ^ 32
  let s := serve (hostWrite s fn (at_ + 0x30) (leBytes 8 w ++ leBytes 8 e.outLen)) fn
  let s := wr s fn (xqFld XPD_Q_HEAD q) (ringNext n)
  let s := bump0 s (inst DMA_DESC_CNT engine) 1
  let s := if e.status = stAborted then bump0 s (inst DMA_ABORT_CNT engine) 1 else s
  if d.event then postEvent s fn ⟨2, e.status, d.userTag.toNat, q + n * 2 ^ 32, e.outLen⟩ else s

/-- The engine of a peer transfer becomes free. -/
def dropXfer (s : State) (x : PeerXfer) : State :=
  let s := { s with xfers := s.xfers.filter (·.engine ≠ x.engine) }
  wr0 (wr0 s (inst DMA_STS_BUSY x.engine) (rd0 s (inst DMA_STS_PLANNED x.engine))) (inst DMA_STS_OP x.engine) 0

/-- Zero-fills what a peer transfer has written: at a peer by WRITEs, unless its key slot is REVOKING (R374); in host memory that can
be written; in the unified range. -/
def eraseXfer (s : State) (x : PeerXfer) : State :=
  if x.write then
    if (xferTenant s x).any (fun t => slotState s t ≠ 1) then s
    else sendWrites s x (fun _ n => List.replicate n 0) x.pieces
  else if x.desc.dstSpace = 2 then s
  else forEach x.pieces s fun s p =>
    if x.desc.dstSpace = 0 then hostWrite s x.fn (x.desc.dstAddr.toNat + p.1) (List.replicate p.2 0)
    else putUnified s (x.desc.dstAddr.toNat + p.1) (List.replicate p.2 0)

/-- Abort of a peer transfer (R334): the bytes it has written are zeroed, and the descriptor completes ABORTED. -/
def abortXfer (s : State) (x : PeerXfer) : State :=
  finishDesc (dropXfer (eraseXfer s x) x) x.fn x.queue x.engine x.desc { status := stAborted }

/-! ### Descriptors that a memory channel holds (R213) -/

/-- The descriptor of a DMA command. -/
def dmaOf : Instr → Option DmaIn
  | .copy d | .expandFb d | .expandCt d | .compress d => some d
  | _ => none

/-- A descriptor with this device's own index in PEER names the unified range (log entry 32). -/
def ownPeer (s : State) (d : DmaDesc) : DmaDesc :=
  if d.peer.toNat = devIndex s then
    { d with srcSpace := if d.srcSpace = 2 then 1 else d.srcSpace, dstSpace := if d.dstSpace = 2 then 1 else d.dstSpace }
  else d

/-- Objects that a descriptor names here, the source first. -/
def descObjs (s : State) (d : DmaDesc) : List Nat :=
  (if d.srcSpace = 1 then (objAt s d.srcAddr.toNat).toList else []) ++ (if d.dstSpace = 1 then (objAt s d.dstAddr.toNat).toList else [])

/-- Key slot of a descriptor (R313). -/
def descSlot (s : State) (fn : Nat) (d : DmaDesc) : Option Nat :=
  if fn ≠ 0 then tenantOf s fn
  else ((descObjs s d).find? (fun o => !(objOf s o).shared)).map fun o => (objOf s o).tenant

def xqEngineOf (s : State) (fn q : Nat) : Nat := rd s fn (xqFld XPD_Q_ENGINE q)

/-- An engine takes a descriptor up. -/
def engineBusy (s : State) (engine fn q op : Nat) : State :=
  let s := wr0 (wr0 s (inst DMA_STS_BUSY engine) 1) (inst DMA_STS_FUNC engine) fn
  wr0 (wr0 s (inst DMA_STS_QUEUE engine) q) (inst DMA_STS_OP engine) op

/-- An engine's descriptor has ended; a planned transfer keeps it busy. -/
def engineIdle (s : State) (engine : Nat) : State :=
  wr0 (wr0 s (inst DMA_STS_BUSY engine) (rd0 s (inst DMA_STS_PLANNED engine))) (inst DMA_STS_OP engine) 0

/-- Held descriptors that `p` selects abort (R334, R295): they have written nothing. -/
def abortHeld (s : State) (p : DmaIn → Bool) : State :=
  let gone := (s.apertureQ.filterMap dmaOf).filter p
  if gone = [] then s
  else
    forEach gone { s with apertureQ := s.apertureQ.filter fun c => !((dmaOf c).any p) } fun s i =>
      let e := xqEngineOf s i.fn i.queue
      finishDesc (engineIdle s e) i.fn i.queue e i.desc { status := stAborted }

/-- The object enters UNMAPPING: transfers that name it abort, its copies stop, its board granules become
zero-state, its rows are struck. -/
def unmapObject (s : State) (o : Nat) (cmd : Option CmdId) (revoke : Bool) : State :=
  let s := abortHeld (forEach (s.xfers.filter (xferNames s o)) s abortXfer) fun i => (descObjs s (ownPeer s i.desc)).contains o
  let s := dropCopies s o
  let x := objOf s o
  let s := forEach (objBoard s o) s boardZero
  let others := s.strikes.filter fun y => match y.owner with | .bands p _ => p = o | _ => false
  let s := { s with strikes := s.strikes.filter (fun y => !others.contains y)
                      ++ [⟨.object o, x.tenant, objRows x ++ others.flatMap (·.rows), [], revoke, others.flatMap (·.held)⟩] }
  let s := setObj s o { x with st := .unmapping, unmap := cmd, repairing := [] }
  if x.repairing = [] then s else forEach (List.range 16) s markPlanned

/-! ### The migration machine (R297, R298) -/

def objCode : ObjSt → Nat
  | .free => 0 | .board => 1 | .promoting => 2 | .package => 3 | .demoting => 4 | .unmapping => 5

def objOfCode : Nat → ObjSt
  | 1 => .board | 2 => .promoting | 3 => .package | 4 => .demoting | 5 => .unmapping | _ => .free

/-- The default migration table (R298) with R449's codes. -/
def defaultMigration : List MachRec :=
  [⟨1, 1, 2, 1, 0⟩, ⟨2, 3, 3, 0, 0⟩, ⟨2, 4, 4, 3, 0⟩, ⟨3, 2, 4, 3, 0⟩, ⟨4, 4, 1, 4, 0⟩, ⟨4, 3, 2, 2, 0⟩,
   ⟨1, 5, 5, 5, 0⟩, ⟨2, 5, 5, 5, 0⟩, ⟨3, 5, 5, 5, 0⟩, ⟨4, 5, 5, 5, 0⟩]

def migrationTable (s : State) : List MachRec := (mapGet s.cfg.mach 1).getD defaultMigration

/-- The record that an event of an object meets. -/
def migRecord (s : State) (o event : Nat) : Option MachRec := machLookup (migrationTable s) (objCode (objOf s o).st) event

/-- The object takes part in migration (R297). -/
def migrates (o : Obj) : Bool := o.layout = 0 && (o.cls = 0 || o.cls = 1) && o.home

/-- A migration event with its action (R449); allocation that finds no bands leaves the object. -/
def migEvent (s : State) (o event : Nat) : State :=
  match migRecord s o event with
  | none => s
  | some r =>
    let x := objOf s o
    let y := { x with st := objOfCode r.next, pass := 0 }
    match r.action with
    | 1 =>
      match takeBands s x (bandCount x) with
      | some gs => setObj s o { y with bands := gs }
      | none => s
    | 4 =>
      let s := setObj s o { y with bands := [] }
      { s with strikes := s.strikes ++ [⟨.bands o x.bands, x.tenant, objRows x, [], false, []⟩] }
    | 5 => unmapObject s o x.unmap false
    | _ => setObj s o y

/-- CLAIMS takes a value; CLAIM or UNCLAIM is raised when it changes from or to 0 (R297). -/
def setClaims (s : State) (o claims : Nat) : State :=
  let x := objOf s o
  let s := setObj s o { x with claims := claims }
  if !migrates x then s
  else if x.claims = 0 && claims ≠ 0 then migEvent s o 1
  else if x.claims ≠ 0 && claims = 0 then migEvent s o 2
  else s

/-- A claim bit set or cleared. -/
def claimBit (s : State) (o b : Nat) (v : Bool) : State := setClaims s o (setBit (objOf s o).claims b v)

/-- A CLAIM would start a promotion for which no bands are free (R293). -/
def claimNoRoom (s : State) (o b : Nat) : Bool :=
  let x := objOf s o
  x.claims = 0 && migrates x && !bit x.claims b
    && (match migRecord s o 1 with | some r => r.action = 1 && (takeBands s x (bandCount x)).isNone | none => false)

/-! ### OBJ_MAP (R290, R291, R292) -/

def descObj (d : ObjDesc) (st : Option StripeDesc) (phys : Bool) : Obj :=
  { objZero with
    cls := d.cls.toNat, prot := d.prot, layout := d.layout.toNat, home := d.home, shared := d.shared
    tenant := d.tenant.toNat, hdim := d.hdim.toNat, nps := d.nps.toNat, base := d.base.toNat, size := d.size.toNat
    chMask := d.chMask.toNat, stMask := d.stMask.toNat, digestAddr := d.digestAddr.toNat, masterAddr := d.masterAddr.toNat
    masterHost := d.masterHost, stripeAddr := d.stripeAddr.toNat, stripe := st.getD stripeZero, byPhys := phys }

/-- Combinations of R290. -/
def classOk (o : Obj) : Bool :=
  match o.cls with
  | 0 => o.layout = 0 || (o.layout = 2 && o.prot && !o.home)
  | 1 => o.layout = 0
  | 2 => o.layout = 1 && !o.prot && !o.home && o.stMask = 2 ^ 32 - 1
  | 3 => o.layout = 0 && o.prot && !o.home
  | 4 => o.layout = 0 && o.home
  | _ => false

/-- Bytes of a matrix lie in the view part. -/
def matIn (d : StripeDesc) (m : StripeMat) : Bool := m.voff.toNat + matSize m ≤ d.viewG.toNat * 2 ^ 21

/-- Failures of a stripe descriptor (R285, R291); a SIZE of 0 is held against nothing (R12). -/
def stripeChecks (o : Obj) (d : StripeDesc) : Checks :=
  { badField := d.rsv || d.units.any (fun u => 30 ≤ u.chan.toNat)
      || d.mats.any (fun m => m.o.toNat % 16 ≠ 0 || 6 ≤ m.codeW.toNat)
    limit := d.unitCnt = 0 || 30720 < d.unitCnt.toNat || d.matCnt = 0 || 1536 < d.matCnt.toNat || d.ngran = 0
      || 47 < d.ngran.toNat
      || d.mats.any (fun m => m.g = 0 || 512 < m.g.toNat || m.o.toNat < 16 || 65536 < m.o.toNat || m.spu = 0)
    extent := d.mats.any (fun m => !matIn d m
        || (m.spu ≠ 0 && d.unitCnt.toNat < m.unit0.toNat + ceilDiv (m.o.toNat / 16) m.spu.toNat))
      || d.units.any (fun u => 48 < u.gran.toNat + d.ngran.toNat)
      || (o.size ≠ 0 && d.viewG.toNat + d.unitCnt.toNat * d.ngran.toNat ≠ o.size) }

/-- Granules of a STRIPED object, as (bank key, granule). -/
def stripeGrans (d : StripeDesc) : List (Nat × Nat) :=
  d.units.flatMap fun u => (upto u.gran.toNat d.ngran.toNat).map fun g => (bankKey u.stack.toNat u.chan.toNat u.bank.toNat, g)

def distinct : List (Nat × Nat) → Bool
  | [] => true
  | x :: xs => !xs.contains x && distinct xs

/-- The storage an object needs is free. -/
def storageFree (s : State) (o : Obj) : Bool :=
  if o.layout = 2 then
    let gs := stripeGrans o.stripe
    distinct gs && gs.all fun p => granFree s p.1 p.2 true
  else if o.home then (takeBoard s o.size).isSome
  else (takeBands s o (bandCount o)).isSome

def overlapsObj (s : State) (o : Obj) : Bool :=
  s.objs.any fun p => p.2.st ≠ .free && o.base < p.2.base + p.2.size * 2 ^ 21 && p.2.base < o.base + o.size * 2 ^ 21

/-- The range lies in tenant `t`'s window (R282). -/
def inWindow (s : State) (t : Nat) (o : Obj) : Bool :=
  o.size = 0 ||
    let b := rd0 s (fldAt UMR_WIN_BASE t 8)
    b ≤ o.base / 2 ^ 21 && ceilDiv o.base (2 ^ 21) + o.size ≤ b + rd0 s (fldAt UMR_WIN_SIZE t 8)

/-- Failures of the unified ranges that an OBJ_MAP names: the digest table (8 bytes a block, R257) and a master copy in the unified range
(R281). An address of 0 names none. -/
def mapNames (s : State) (fn : Nat) (o : Obj) : Checks :=
  bothChecks (if o.digestAddr = 0 then {} else judge s fn o.digestAddr (256 * o.size) false)
    (if o.masterAddr = 0 || o.masterHost then {} else judge s fn o.masterAddr (o.size * 2 ^ 21) false)

def objMapChecks (s : State) (h : CmdHdr) (n : Nat) (d : ObjDesc) (o : Obj) : Checks :=
  let formBad := !classOk o || o.base % 2 ^ 21 ≠ 0 || o.chMask = 0 || o.stMask = 0 || (o.prot && 30 ≤ o.chMask.log2)
    || (o.layout = 1 && o.size % 32 ≠ 0) || (o.home && popcount 32 o.chMask * popcount 32 o.stMask < 8)
    || (o.shared && o.tenant ≠ 0)
    || (if o.cls = 2 then o.hdim = 3 || o.nps = 0 else o.hdim ≠ 0 || o.nps ≠ 0)
  let outside := 4194304 < o.base / 2 ^ 21 + o.size
  let k : Checks :=
    { denied := unbound s h.fn
        || (h.fn ≠ 0 && (o.shared || some o.tenant ≠ tenantOf s h.fn || !inWindow s o.tenant o))
      key := if h.fn = 0 then !o.shared && slotBad s o.tenant else carried s h.fn none
      badState := (objOf s n).st ≠ .free
      badField := h.rsv || d.other || formBad || (!o.masterHost && wideBits o.masterAddr)
      limit := 4194304 < o.size || 1024 < o.nps
      extent := outside }
  let k := bothChecks k (mapNames s h.fn o)
  let k := if o.layout = 2 then bothChecks k (stripeChecks o o.stripe) else k
  if (refusal k).isSome || o.size = 0 then k
  else { k with noRoom := overlapsObj s o || !storageFree s o }

/-- Translation entries of a mapped object: granule `k` of it with its band's index or its board granule. -/
def mapGranules (s : State) (n : Nat) (o : Obj) (board : List Nat) : State :=
  forEach (List.range o.size) s fun s k =>
    let e : XEnt :=
      if o.home then ⟨.board, true, false, false, n, 0, board.getD k 0⟩
      else
        let kk := if o.layout = 1 then k % (o.size / 32) else k
        ⟨.stack, false, false, false, n, if o.layout = 2 then 0 else o.bands.getD (kk / bandBanks o) 0, 0⟩
    setXent s (o.base / 2 ^ 21 + k) e

/-- OBJ_MAP takes effect: all storage is allocated (R292). -/
def objMapEffect (s : State) (n : Nat) (o : Obj) : State :=
  if o.home then
    let bg := (takeBoard s o.size).getD []
    let o := { o with st := .board }
    mapGranules (setObj s n o) n o bg
  else
    let o := { o with st := .package, bands := if o.layout = 2 then [] else (takeBands s o (bandCount o)).getD [] }
    mapGranules (setObj s n o) n o []

def applyObjMap (h : CmdHdr) (obj : W16) (desc : Option ObjDesc) (stripe : Option StripeDesc) (s : State) (c : CmdId) :
    State :=
  let n := obj.toNat
  let k0 : Checks := { denied := unbound s h.fn, key := h.fn ≠ 0 && carried s h.fn none,
                       badState := (objOf s n).st ≠ .free, badField := h.rsv }
  match desc with
  | none => conclude s c ((refusal k0).getD stUncorrected)
  | some d =>
    if d.layout = 2 && stripe.isNone then conclude s c ((refusal k0).getD stUncorrected)
    else
      let o := descObj d stripe (decide (h.fn = 0))
      let k := objMapChecks s h n d o
      let s := if refusal k = some stDenied && (mapNames s h.fn o).denied then bump0 s UMR_DENY_CNT 1 else s
      guarded s c k fun s => conclude (if o.size = 0 then s else objMapEffect s n o) c stOk

/-! ### OBJ_PLACE and OBJ_UNMAP (R293, R295) -/

/-- Claim bit that OBJ_PLACE acts on. -/
def placeBit (s : State) (fn for_ : Nat) : Nat := if fn = 0 then for_ else (tenantOf s fn).getD 0

def placeChecks (s : State) (h : CmdHdr) (n for_ : Nat) (claim : Bool) : Checks :=
  let o := objOf s n
  let live := o.st ≠ .free
  let k : Checks :=
    { denied := unbound s h.fn || (h.fn ≠ 0 && !(live && (o.shared || some o.tenant = tenantOf s h.fn)))
      key := carried s h.fn (if for_ < 32 then some for_ else none)
      badState := o.st = .unmapping || (h.fn = 0 && !live)
      badField := h.rsv || (if h.fn = 0 then 32 < for_ else for_ ≠ 0) }
  if (refusal k).isSome then k else { k with noRoom := claim && claimNoRoom s n (placeBit s h.fn for_) }

def applyPlace (claim : Bool) (h : CmdHdr) (obj : W16) (forBit : BitVec 6) (s : State) (c : CmdId) : State :=
  let k := placeChecks s h obj.toNat forBit.toNat claim
  let s := if refusal k = some stNoRoom then bump0 s MIG_NOROOM_CNT 1 else s
  guarded s c k fun s => conclude (claimBit s obj.toNat (placeBit s h.fn forBit.toNat) claim) c stOk

/-- A reel whose image was accepted names the object, or a stream buffer in use does. -/
def reelNames (s : State) (n : Nat) : Bool :=
  s.reels.any (fun r => r.2.stages ≠ [] && (reelObjs s r.2).contains n)
    || (List.range 4).any fun r => rd0 s (fldAt UMR_STREAM_EN r 8) = 1 && rd0 s (fldAt UMR_STREAM_OBJ r 8) = n

def entryNames (s : State) (n : Nat) : Bool :=
  s.entries.any fun e => e.2.st ≠ .free
    && (objAt s e.2.plPtr = some n || e.2.pages.any (fun p => p.obj = n && !p.absent))

def strikePends (s : State) (n : Nat) : Bool := s.strikes.any fun x => x.runs.any fun r => r.1 = n

def unmapChecks (s : State) (h : CmdHdr) (n : Nat) : Checks :=
  let o := objOf s n
  let live := o.st ≠ .free
  { denied := unbound s h.fn || (h.fn ≠ 0 && !(live && !o.shared && some o.tenant = tenantOf s h.fn))
    key := carried s h.fn (if live && !o.shared then some o.tenant else none)
    badState := !live || o.st = .unmapping || reelNames s n || entryNames s n || strikePends s n
    badField := h.rsv }

def applyObjUnmap (h : CmdHdr) (obj : W16) (s : State) (c : CmdId) : State :=
  guarded s c (unmapChecks s h obj.toNat) fun s => unmapObject s obj.toNat (some c) false

/-! ### The commands -/

def execObjMap (h : CmdHdr) (obj : W16) (desc : Option ObjDesc) (stripe : Option StripeDesc) (s : State) : Out :=
  act s fun s => submit s h (.objMap h obj desc stripe) 0x20 none (applyObjMap h obj desc stripe)

def execClaim (h : CmdHdr) (obj : W16) (forBit : BitVec 6) (s : State) : Out :=
  act s fun s => submit s h (.claim h obj forBit) 0x21 none (applyPlace true h obj forBit)

def execUnclaim (h : CmdHdr) (obj : W16) (forBit : BitVec 6) (s : State) : Out :=
  act s fun s => submit s h (.unclaim h obj forBit) 0x21 none (applyPlace false h obj forBit)

def execObjUnmap (h : CmdHdr) (obj : W16) (s : State) : Out :=
  act s fun s => submit s h (.objUnmap h obj) 0x22 none (applyObjUnmap h obj)

end Sys2Proof.Machine
end

