-- ==== Sys2Proof/Machine/Trust.lean ====
section
/-! DEFINITION. Trust and tenants (16): measurements, the MTP mailbox, the creation and removal of tenants, and revocation. -/
namespace Sys2Proof.Machine

/-! ### Measurements (R410, R411) -/

/-- Extends measurement register `i` by `d` and logs it. -/
def extend (s : State) (i event : Nat) (d : BitVec 384) : State :=
  let m := sha384 (digestBytes (mapGetD s.trust.mreg i 0) ++ digestBytes d)
  let s := { s with trust := { s.trust with mreg := mapSet 0 s.trust.mreg i m } }
  if s.trust.log.length < 1024 then
    let s := { s with trust := { s.trust with log := s.trust.log ++ [(i, event, rd0 s FRM_TICK, d)] } }
    wr0 s MTP_LOG_COUNT s.trust.log.length
  else wr0 s MTP_LOG_OVERFLOW 1

/-- The 64 bytes of log record `n`. -/
def logBytes (n : Nat) (r : Nat × Nat × Nat × BitVec 384) : Bytes :=
  leBytes 8 (r.1 + r.2.1 * 2 ^ 8 + n * 2 ^ 32) ++ leBytes 8 r.2.2.1 ++ digestBytes r.2.2.2

def logImage (s : State) : Bytes := s.trust.log.zipIdx.flatMap fun p => logBytes p.2 p.1

/-- An open digest (log entry 3). -/
def drawDigest (s : State) : BitVec 384 × State := (Config.free384 s.freeCnt, { s with freeCnt := s.freeCnt + 1 })

/-- `n` open bytes (log entry 3): the content of a blob over keys and certificates that the model does not hold. -/
def drawBytes : Nat → State → Bytes × State
  | 0, s => ([], s)
  | n + 1, s =>
    let (v, s) := draw s
    let (bs, s) := drawBytes n s
    (BitVec.ofNat 8 v.toNat :: bs, s)

/-! ### Slates (R41) -/

/-- Ticks run a Slate under R41: not in RECOVERY, not while a DEVICE-class error is held or HALT_AT_TICK holds, not on a leader with
GATE set and RUN clear, not on a follower without lock. -/
def slatesRun (s : State) : Bool :=
  !recovery s && !flag s ERL_HELD_DEVICE && !s.frame.halted
    && (if leader s then runSet s || !flag s FRM_CTL_GATE else flag s FRM_STS_LOCKED)

/-! ### Key slots and bindings (R415, R416, R419) -/

def setSlot (s : State) (t st : Nat) : State := wr0 s (fldAt KEY_SLOT_STATE t 8) st

/-- Installs fresh keys in slot `t`: its link counter starts at 0 (R372, R416). -/
def installKeys (s : State) (t : Nat) : State :=
  { setSlot s t 1 with trust := { s.trust with ctr := mapSet 0 s.trust.ctr t 0 } }

/-- Binds a tenant to its function, range and window (R419). -/
def bindTenant (s : State) (c : Creation) : State :=
  let s := wr0 (wr0 s (fldAt CSH_RANGE_BASE c.tenant 8) c.rangeBase) (fldAt CSH_RANGE_COUNT c.tenant 8) c.rangeCount
  let s := wr0 (wr0 s (fldAt UMR_WIN_BASE c.tenant 8) c.winBase) (fldAt UMR_WIN_SIZE c.tenant 8) c.winSize
  let s := wr0 (wr0 s (fldAt PCI_FN_TENANT c.fn 8) c.tenant) (fldAt PCI_FN_BOUND c.fn 8) 1
  wr0 s (fldAt KEY_SLOT_FUNC c.tenant 8) c.fn

/-- Unbinds a removed tenant (R425). -/
def unbindTenant (s : State) (t : Nat) : State :=
  let fn := functionOf s t
  let s := wr0 (wr0 s (fldAt CSH_RANGE_COUNT t 8) 0) (fldAt UMR_WIN_SIZE t 8) 0
  let s := wr0 (wr0 s (fldAt PCI_FN_TENANT fn 8) 0) (fldAt PCI_FN_BOUND fn 8) 0
  wr0 s (fldAt KEY_SLOT_FUNC t 8) 0

/-! ### The mailbox (R418) -/

/-- A mailbox command concludes: STATUS and SEQ are written and BUSY clears. -/
def mbxDone (s : State) (status : Nat) : State :=
  let s := wr0 (wr0 s MTP_MBX_STATUS status) MTP_MBX_SEQ (rd0 s MTP_MBX_CMD_SEQ)
  { wr0 s MTP_MBX_BUSY 0 with trust := { s.trust with mbxOp := 0 } }

def mbxArg (s : State) (i : Nat) : Nat := rd0 s (fldAt MTP_MBX_ARG i 8)

/-- Bits of an ARG word outside the named ones are nonzero. -/
def mbxRsv (s : State) (i : Nat) (mask : Nat) : Bool := mbxArg s i &&& (2 ^ 64 - 1 - mask) ≠ 0

def fieldMask (lsb w : Nat) : Nat := (2 ^ w - 1) * 2 ^ lsb

def creationOf (s : State) : Creation :=
  ⟨bits (mbxArg s 0) 0 5, bits (mbxArg s 0) 8 5, bits (mbxArg s 1) 0 13, bits (mbxArg s 1) 16 14, bits (mbxArg s 2) 0 22,
   bits (mbxArg s 2) 32 23⟩

def overlap (a n b m : Nat) : Bool := n ≠ 0 && m ≠ 0 && a < b + m && b < a + n

def createChecks (s : State) (c : Creation) : Checks :=
  let others := (List.range 32).filter (· ≠ c.tenant)
  { badState := slotState s c.tenant ≠ 0 || (tenantOf s c.fn).isSome
    badField := mbxRsv s 0 (fieldMask 0 5 + fieldMask 8 5) || mbxRsv s 1 (fieldMask 0 13 + fieldMask 16 14)
      || mbxRsv s 2 (fieldMask 0 22 + fieldMask 32 23)
    limit := 8192 < c.rangeCount || 4194304 < c.winSize
    extent := 8192 < c.rangeBase + c.rangeCount || 4194304 < c.winBase + c.winSize
    noRoom := others.any fun t =>
      overlap c.rangeBase c.rangeCount (rd0 s (fldAt CSH_RANGE_BASE t 8)) (rd0 s (fldAt CSH_RANGE_COUNT t 8))
        || overlap c.winBase c.winSize (rd0 s (fldAt UMR_WIN_BASE t 8)) (rd0 s (fldAt UMR_WIN_SIZE t 8)) }

/-- TENANT_CREATE (R419). -/
def mbxCreate (s : State) : State :=
  let c := creationOf s
  match refusal (createChecks s c) with
  | some st => mbxDone s st
  | none =>
    if c.rangeCount = 0 || c.winSize = 0 then mbxDone s stOk
    else
      let s := installKeys s c.tenant
      if slatesRun s then { s with trust := { s.trust with creation := some c } } else mbxDone (bindTenant s c) stOk

/-- The creation that waits takes effect at T+18 µs of a Slate (R419). -/
def createWaiting (s : State) : State :=
  match s.trust.creation with
  | none => s
  | some c => mbxDone (bindTenant { s with trust := { s.trust with creation := none } } c) stOk

/-! ### Revocation (R422 to R426) -/

def revokeOf (s : State) (t : Nat) : Option Revoke := s.trust.revokes.find? (·.tenant = t)

def setRevoke (s : State) (r : Revoke) : State :=
  { s with trust := { s.trust with revokes := s.trust.revokes.map fun x => if x.tenant = r.tenant then r else x } }

/-- KEY_DRAIN shows the revocation that started first. -/
def settleDrain (s : State) : State :=
  let put := fun s t d p m => wr0 (wr0 (wr0 (wr0 s KEY_DRAIN_TENANT t) KEY_DRAIN_DMA d) KEY_DRAIN_PORT p) KEY_DRAIN_PEER m
  match s.trust.revokes with
  | [] => put s 0 0 0 0
  | r :: _ =>
    put s r.tenant (if r.drained then 0 else 65535) (if r.drained then 0 else 15)
      (r.waiting.foldl (fun m d => setBit m d true) 0)

/-- Devices that a REVOKE goes to (log entry 24): a leader's participants; on a follower that takes part, every other device of
the topology. -/
def peerDevs (s : State) : List Nat :=
  if leader s then s.frame.participants.map (·.dev)
  else if s.frame.takesPart then (devices s).filter (· ≠ devIndex s) else []

/-- Array slots tagged with the tenant are cleared before the first wave (R138). -/
def clearSlots (s : State) (t : Nat) : State :=
  forEach ((List.range 64).flatMap fun a => (List.range 32).map fun k => (a, k)) s fun s p =>
    let f := fldAt (inst ARY_SLOT_VALID p.1) p.2 8
    let g := fldAt (inst ARY_SLOT_TENANT p.1) p.2 8
    if rd0 s f = 1 && rd0 s g = t then bump0 (wr0 (wr0 s f 0) g 0) (inst ARY_CLEAR_CNT p.1) 1 else s

/-- Table slots that the tenant owns become unassigned and empty (R334). -/
def freeTableSlots (s : State) (t : Nat) : State :=
  forEach ((List.range 4).flatMap fun g => (List.range 16).map fun k => (g, k)) s fun s p =>
    let f := slotOwnFld p.1 p.2
    if rd0 s f = t then { wr0 s f 63 with tblSlots := mapDel s.tblSlots (tblKey p.1 p.2) } else s

/-- The Slate of a revocation (R423 step 4, R69, R138, R211). -/
def revokeSlate (s : State) (t : Nat) : State :=
  let es := (s.entries.filter (fun e => e.2.st ≠ .free && e.2.tenant = t)).map (·.1)
  let s := forEach es s fun s e =>
    let s := match (entryOf s e).rel with
      | some c => setEntry (conclude s c stAborted) e { entryOf s e with rel := none }
      | none => s
    if (entryOf s e).st = .striking then s else strikeEntry s e true
  let own := (s.objs.filter (fun o => o.2.st ≠ .free && !o.2.shared && o.2.tenant = t)).map (·.1)
  let s := forEach own s fun s o => if (objOf s o).st = .unmapping then s else unmapObject s o none true
  let pool := poolRuns s t
  let s := if pool = [] then s else { s with strikes := s.strikes ++ [⟨.pool, t, pool, [], true, []⟩] }
  let s := { s with strikes := s.strikes.map fun x => if x.tenant = t then { x with revoke := true } else x }
  let shared := (s.objs.filter (fun o => o.2.shared && bit o.2.claims t)).map (·.1)
  let s := forEach shared s fun s o => claimBit s o t false
  let s := clearStaging (clearSlots (freeTableSlots s t) t) t
  match revokeOf s t with
  | some r => setRevoke s { r with slateSeen := true }
  | none => s

/-- The MTP strikes directly where no tick runs (R423). -/
def strikeDirect (s : State) (t : Nat) : State :=
  settleEntries (concludeStrikes (strikeSome s (fun x => x.tenant = t) (s.strikes.foldl (fun n x => n + rowCount x.rows) 0)))

/-- A revocation of an ACTIVE slot starts (R423 steps 1 to 3). -/
def beginRevoke (s : State) (t : Nat) (remove : Bool) (flr : List Nat) (asked : List Nat) : State :=
  let s := setSlot s t 2
  let s := forEach (s.xfers.filter (fun x => xferTenant s x = some t)) s abortXfer
  let s := abortHeld s fun i => descSlot s i.fn (ownPeer s i.desc) = some t
  let devs := peerDevs s
  let r : Revoke :=
    { tenant := t, remove := remove, flr := flr, peer := asked ≠ [], startFrame := rd0 s FRM_FRAME, startTick := rd0 s FRM_TICK
      slateSeen := false, drained := false, waiting := devs, asked := asked }
  let s := { s with trust := { s.trust with revokes := s.trust.revokes ++ [r] } }
  let s := if asked = [] then s else bump0 s KEY_PEER_RVK 1
  let s := forEach devs s fun s d => originate s (control 9 d (leBytes 8 t))
  let s := if slatesRun s then s else strikeDirect (revokeSlate s t) t
  settleDrain s

/-- A function-level reset starts a revocation of its tenant or joins the one in progress (R426). -/
def revokeFn (s : State) (fn t : Nat) : State :=
  match revokeOf s t with
  | some r => setRevoke s { r with flr := r.flr.filter (· ≠ fn) ++ [fn] }
  | none => if slotState s t = 1 then beginRevoke s t false [fn] [] else s

/-- TENANT_REMOVE (R423, R426). -/
def mbxRemove (s : State) : State :=
  let t := bits (mbxArg s 0) 0 5
  match refusal { badState := slotState s t ≠ 1, badField := mbxRsv s 0 31 } with
  | some st => mbxDone s st
  | none => beginRevoke s t true [] []

/-- The deadline of R424 has passed. -/
def revokeLate (s : State) (r : Revoke) : Bool :=
  if runSet s then r.startFrame + 2 < rd0 s FRM_FRAME else r.startTick + 3 < rd0 s FRM_TICK

/-- A function-level reset of a virtual function completes: it leaves reset, with its FRS message and FLR_DONE (R399). -/
def leaveFlr (s : State) (status fn : Nat) : State :=
  postEvent (send (setFn s fn { fnOf s fn with inFlr := false }) (.frs fn)) 0 ⟨6, status, 0, fn, 0⟩

/-- The strike of a function is over: a function-level reset of a virtual function completes with it (R399 step 5), one of the
physical function waits for every strike (R400). -/
def finishFlr (s : State) (status fn : Nat) : State :=
  let s := wr0 s (fldAt PCI_FN_STRIKING fn 8) 0
  if fn = 0 || !(fnOf s fn).inFlr then s else leaveFlr s status fn

/-- The physical function leaves reset once its configuration space answers and no revocation runs (R400). -/
def settlePf (s : State) : State :=
  if (fnOf s 0).inFlr && !(fnOf s 0).flrAnswer && s.trust.revokes = [] then send (setFn s 0 { fnOf s 0 with inFlr := false }) (.frs 0)
  else s

/-- Nothing of the tenant is left to strike. -/
def struckOut (s : State) (t : Nat) : Bool :=
  !s.strikes.any (fun x => x.tenant = t && x.revoke) && !s.entries.any (fun e => e.2.st ≠ .free && e.2.tenant = t)
    && !s.objs.any (fun o => o.2.st ≠ .free && !o.2.shared && o.2.tenant = t)

/-- Step 6 of R423 may run: at a Wrap, or where no tick runs at once. -/
def revokeReady (s : State) (r : Revoke) : Bool :=
  r.slateSeen && r.drained && r.waiting = [] && struckOut s r.tenant && (s.frame.phase = .wrap || !slatesRun s)

/-- Step 6 of R423 with the end state of R425. -/
def endRevoke (s : State) (r : Revoke) : State :=
  let t := r.tenant
  let late := revokeLate s r
  let st := if late then stDoneLate else stOk
  let e := fldAt KEY_SLOT_EPOCH t 8
  let s := { s with trust := { s.trust with revokes := s.trust.revokes.filter (·.tenant ≠ t) } }
  let s := wr0 s e (rd0 s e + 1)
  let s := bump0 (if late then bump0 s KEY_RVK_LATE 1 else s) KEY_RVK_CNT 1
  let s := if r.remove then mbxDone (unbindTenant (setSlot s t 0) t) st else installKeys s t
  let s := forEach r.flr s fun s fn => finishFlr s st fn
  let s := if r.peer then
      raise s { cls := clTenant, reason := 0x204, type := 0x0D, tenant := some t }
    else s
  settleDrain s

/-! ### Torus keys and the log (R417, R420) -/

/-- Blobs are at most 96 KiB; a longer input is above its maximum. -/
def blobMax : Nat := 98304

def writeBlob (s : State) (addr len : Nat) : State :=
  let (bs, s) := drawBytes len s
  hostWrite s 0 addr bs

/-- The length in the low half of an ARG word. -/
def mbxLen (s : State) (i : Nat) : Nat := mbxArg s i % 2 ^ 32

/-- Concludes a command with its first failure; one that names an input or an output of no bytes is a no-op that completes OK, and
that length is not held against the blob (R12); else `f` runs. -/
def mbxRun (s : State) (k : Checks) (empty : Bool) (f : State → State) : State :=
  match refusal k with
  | some st => mbxDone s st
  | none => mbxDone (if empty then s else f s) stOk

def mbxExport (s : State) (blobLen : Nat) : State :=
  mbxRun s { badField := mbxRsv s 1 (2 ^ 32 - 1), extent := mbxLen s 1 ≠ 0 && mbxLen s 1 < blobLen } (mbxLen s 1 = 0)
    fun s => writeBlob s (mbxArg s 0) blobLen

def linksDisabled (s : State) : Bool := (List.range 4).all fun p => lnkState s p = 0

def mbxWrap (s : State) (verified : Bool) (blobLen : Nat) : State :=
  mbxRun s
    { denied := !leader s || linksDisabled s
      badField := mbxRsv s 1 (2 ^ 32 - 1) || mbxRsv s 3 (2 ^ 32 - 1) || (mbxLen s 1 ≠ 0 && !verified)
      limit := blobMax < mbxLen s 1, extent := mbxLen s 3 ≠ 0 && mbxLen s 3 < blobLen }
    (mbxLen s 1 = 0 || mbxLen s 3 = 0) fun s => writeBlob s (mbxArg s 2) blobLen

def setTorusId (s : State) (torusId : BitVec 128) : State :=
  let s := { wr0 s KEY_TORUS_HELD 1 with trust := { s.trust with ctr := mapSet 0 s.trust.ctr 32 0 } }
  wr0 (wr0 s KEY_TORUS_ID0 (torusId.toNat % 2 ^ 64)) KEY_TORUS_ID1 (torusId.toNat / 2 ^ 64)

/-- TORUS_INSTALL; the 48-byte digest that stands for the 16-byte TORUS_ID in R410 is open (log entry 3). -/
def mbxInstall (s : State) (verified : Bool) (torusId : BitVec 128) (epochs : List W32) : State :=
  mbxRun s
    { badState := runSet s, badField := mbxRsv s 1 (2 ^ 32 - 1) || (mbxLen s 1 ≠ 0 && !verified), limit := blobMax < mbxLen s 1 }
    (mbxLen s 1 = 0) fun s =>
      let s := setTorusId s torusId
      let s := forEach (epochs.zipIdx.take 32) s fun s p => wr0 s (fldAt KEY_SLOT_EPOCH p.2 8) p.1.toNat
      let (d, s) := drawDigest s
      extend s 8 7 d

def mbxLogRead (s : State) : State :=
  let b := logImage s
  mbxRun s { badField := mbxRsv s 1 (2 ^ 32 - 1), extent := mbxLen s 1 ≠ 0 && mbxLen s 1 < b.length } (mbxLen s 1 = 0)
    fun s => hostWrite s 0 (mbxArg s 0) b

/-- A write of MTP_MBX_CMD starts a command (R418); without its identity the device refuses all but LOG_READ (R409). The torus
commands stay BUSY until the MTP has their outcome. -/
def mbxStart (s : State) (op : Nat) : State :=
  let s := { wr0 s MTP_MBX_BUSY 1 with trust := { s.trust with mbxOp := op } }
  if !flag s MTP_ID_OK && op ≠ 0x20 then mbxDone s stDenied
  else if op = 1 then mbxCreate s
  else if op = 2 then mbxRemove s
  else if op = 0x20 then mbxLogRead s
  else if op = 0x10 || op = 0x11 || op = 0x12 then s
  else mbxDone s stBadField

/-- A command of the mailbox with its SEQ; while BUSY the write is dropped. -/
def mailbox (s : State) (op : Nat) (seq : Byte) : State :=
  if flag s MTP_MBX_BUSY then dropWrite s 0 0xB000 stBadState MTP_MBX_OP
  else mbxStart (wr0 s MTP_MBX_CMD_SEQ seq.toNat) op

/-- A torus command with its outcome: it starts the command, unless a register write already has. -/
def torusCmd (s : State) (op : Nat) (seq : Byte) (f : State → State) : State :=
  let s := if flag s MTP_MBX_BUSY && s.trust.mbxOp = op then s else mailbox s op seq
  if flag s MTP_MBX_BUSY && s.trust.mbxOp = op then f s else s

/-! ### The commands -/

def execTenantCreate (seq : Byte) (s : State) : Out := act s fun s => mailbox s 1 seq

def execTenantRemove (seq : Byte) (s : State) : Out := act s fun s => mailbox s 2 seq

def execTorusExport (seq : Byte) (blobLen : Nat) (s : State) : Out :=
  act s fun s => torusCmd s 0x10 seq fun s => mbxExport s blobLen

def execTorusWrap (seq : Byte) (verified : Bool) (blobLen : Nat) (s : State) : Out :=
  act s fun s => torusCmd s 0x11 seq fun s => mbxWrap s verified blobLen

def execTorusInstall (seq : Byte) (verified : Bool) (torusId : BitVec 128) (epochs : List W32) (s : State) : Out :=
  act s fun s => torusCmd s 0x12 seq fun s => mbxInstall s verified torusId epochs

def execLogRead (seq : Byte) (s : State) : Out := act s fun s => mailbox s 0x20 seq

/-- The revocation's last condition holds, and step 6 of R423 runs. Where no tick runs a Slate the MTP strikes directly first. -/
def execRevocationComplete (tenant : Nat) (s : State) : Out :=
  act s fun s =>
    match revokeOf s tenant with
    | some r =>
      if revokeReady s r then settlePf (endRevoke s r)
      else if slatesRun s then s
      else
        let s := strikeDirect (if r.slateSeen then s else revokeSlate s tenant) tenant
        match revokeOf s tenant with
        | some r => if revokeReady s r then settlePf (endRevoke s r) else s
        | none => s
    | none => s

/-- The device's engines and ports hold nothing of the tenant: every REVOKE that it owes is answered (R374, R426). -/
def execRevokeDrained (tenant : Nat) (s : State) : Out :=
  act s fun s =>
    match revokeOf s tenant with
    | none => s
    | some r =>
      let s := forEach r.asked s fun s d => originate s (control 10 d (leBytes 8 tenant))
      settleDrain (setRevoke s { r with drained := true, asked := [] })

end Sys2Proof.Machine
end

