-- ==== Sys2Proof/Machine/Overlay.lean ====
section
/-! DEFINITION. Base configuration and overlays (17): the checks of an image (R444 to R453), effective values (R457), staging
(R458) and OVERLAY_APPLY (R459 to R461). -/
namespace Sys2Proof.Machine

/-! ### Checks of an image -/

/-- A value that a register write to the field would be allowed, its state aside (R448). -/
def valueOk (s : State) (h : Hit) (v : Nat) : Bool :=
  match h.spec.tag with
  | .period => 250 ≤ v && v ≤ 100000
  | .curve0 | .curve1 => nonIncreasing (bytesOf v)
  | .denyRun => h.fld.width = 1 || v < 3
  | .stageRows => 16 ≤ v
  | .rgnBound => v ≤ 48
  | .enable | .run | .lnkEn => true
  | _ => (fieldStatus s 0 h v).isNone

/-- A REG record names one whole cfg field that is not derived, with a value it may hold (R447, R448). -/
def regOk (s : State) (overlay : Bool) (r : RegRec) : Bool :=
  r.off % 8 = 0 && r.off < 0x100000 && r.value < 2 ^ r.width
    && (hitsAt r.off).any fun h => h.fld.lsb = r.lsb && h.fld.width = r.width
      && (h.spec.cfg = .named || (h.spec.cfg = .named0 && h.base = h.page.base && !r.all))
      && (!overlay || h.spec.acc = .rwt) && (!r.all || h.base = h.page.base) && valueOk s h r.value

/-- No two records name one field in the same way (R448). -/
def regsDistinct : List RegRec → Bool
  | [] => true
  | r :: rs => !rs.any (fun q => q.off = r.off && q.lsb = r.lsb && q.all = r.all) && regsDistinct rs

/-- A BASE image names every cfg field that is not derived, in every page and instance. -/
def namesAll (regs : List RegRec) : Bool :=
  pages.all fun p => (List.range p.insts).all fun n =>
    (pageHits (p.base + 0x1000 * n)).all fun h =>
      (h.spec.cfg ≠ .named && (h.spec.cfg ≠ .named0 || n ≠ 0)) || (imageValue regs h.base h.fld).isSome

def machDistinct : List MachRec → Bool
  | [] => true
  | r :: rs => !rs.any (fun q => q.state = r.state && q.event = r.event) && machDistinct rs

/-- A MACHINE table passes its checks (R449). -/
def machOk (id : Nat) (t : List MachRec) : Bool :=
  machDistinct t &&
  (if id = 1 then
    t.all (fun r => (r.state ≤ 5 || r.state = 0xFF) && 1 ≤ r.event && r.event ≤ 5 && 1 ≤ r.next && r.next ≤ 5 && r.action ≤ 5
        && r.param = 0 && ((r.state ≠ 5 && r.state ≠ 0xFF) || r.next = 5))
      && [1, 2, 3, 4].all fun st => (machLookup t st 5).any fun r => r.next = 5 && r.action = 5
  else if id = 2 then
    t.all (fun r => (r.state ≤ 7 || r.state = 0xFF) && 1 ≤ r.event && r.event ≤ 11 && r.next ≤ 7 && r.action ≤ 5
        && (if r.event = 3 then 1 ≤ r.param && r.param ≤ 1000000 else r.event = 4 || r.param = 0))
      && t.any fun r => r.event = 11 && r.next = 0
  else false)

def ascending : List Int → Bool
  | [] => true
  | [_] => true
  | a :: b :: r => a < b && ascending (b :: r)

/-- A curve has 2 to 64 points with x strictly ascending (R450). -/
def curveOk (c : CurveRec) : Bool := 2 ≤ c.pts.length && c.pts.length ≤ 64 && ascending (c.pts.map (·.1))

/-- Cost records of one table lie in strictly ascending KEY (R451). -/
def costsOk : List CostRec → Bool
  | [] => true
  | [c] => 1 ≤ c.table && c.table ≤ 9 && c.clock ≤ 3
  | a :: b :: r => 1 ≤ a.table && a.table ≤ 9 && a.clock ≤ 3 && (a.table < b.table || (a.table = b.table && a.key < b.key))
      && costsOk (b :: r)

/-- START records name distinct reel slots (R453). -/
def startOk : List (Nat × Nat) → Bool
  | [] => true
  | r :: rs => r.2 < 4 && !rs.any (fun q => q.2 = r.2) && startOk rs

/-- Keys that every base image holds, in ascending order (R451): fabric paths between different dies, stack accesses, attention items,
bank-unit opcodes with the collector and the switch, row operations, refresh, board and link transfers, sampler, PCIe. -/
def requiredCosts : List (Nat × Nat) :=
  ((List.range 5).flatMap fun d => ((List.range 5).filter (· ≠ d)).map fun a => (1, a + 16 * d))
    ++ [(2, 0), (2, 1), (2, 2), (2, 3)]
    ++ ((List.range 3).flatMap fun i => (List.range 2).flatMap fun f => (List.range 3).map fun h => (3, h + 4 * f + 16 * i))
    ++ (([0, 1, 2, 3, 4, 5, 6, 8, 9, 0xA, 0xB, 0xC, 0x10, 0x11, 0x12, 0x13, 0x18, 0x19, 0x1A, 0x20, 0x21, 0x22, 0x23]
          ++ upto 0x28 13 ++ [0x100, 0x101]).map fun k => (4, k))
    ++ ((List.range 7 ++ [0x10]).map fun k => (5, k))
    ++ [(6, 0), (6, 1), (7, 0), (7, 1), (7, 2), (7, 0x101), (7, 0x102), (7, 0x103), (7, 0x200), (8, 0), (8, 1), (8, 2), (9, 0), (9, 1)]

def modeKnown (i : CfgImage) : Bool := i.mode.all fun m => decide (m.toNat % 8 < 4)

def commonOk (s : State) (overlay : Bool) (i : CfgImage) : Bool :=
  i.formOk && i.regs.all (regOk s overlay) && regsDistinct i.regs && i.mach.all (fun m => machOk m.1 m.2.2)
    && i.curves.all curveOk && costsOk i.costs && i.slot < 8 && modeKnown i

/-- The checks of an overlay (R444 to R451). -/
def overlayOk (s : State) (i : CfgImage) : Bool :=
  i.sigOk && commonOk s true i && i.start = []
    && i.costs.all fun c => s.cfg.baseCosts.any fun b => b.table = c.table && b.key = c.key

/-- The checks of a base image beside its signature (R456). -/
def baseOk (s : State) (i : CfgImage) : Bool :=
  commonOk s false i && i.slot = 0 && !i.startup && i.mode.isSome && namesAll i.regs && i.start.length ≤ 4 && startOk i.start
    && requiredCosts.all fun k => i.costs.any fun c => c.table = k.1 && c.key = k.2

/-! ### Effective values and tables (R457) -/

/-- Fields that an image's records name. -/
def namedHits (i : CfgImage) : List Hit :=
  i.regs.flatMap fun r =>
    match pageAt r.off with
    | none => []
    | some (p, _) =>
      (if r.all then List.range p.insts else [0]).flatMap fun n =>
        (hitsAt (r.off + 0x1000 * n)).filter fun h => h.fld.lsb = r.lsb

def slotImage (s : State) (k : Nat) : Option CfgImage := mapGet s.cfg.slots k

/-- The table of an ID in the highest slot that carries one, else the base's. -/
def effMach (s : State) (id : Nat) : Option (Nat × List MachRec) :=
  s.cfg.slots.reverse.findSome? fun p => (p.2.mach.find? (·.1 = id)).map fun m => m.2

def effCurve (s : State) (id : Nat) : Option CurveRec :=
  match s.cfg.slots.reverse.findSome? (fun p => p.2.curves.find? (·.id = id)) with
  | some c => some c
  | none => mapGet s.cfg.baseCurves id

/-- Cost records in force: every base record, replaced by the highest slot that holds its KEY. -/
def effCosts (s : State) : List CostRec :=
  s.cfg.baseCosts.map fun b =>
    (s.cfg.slots.reverse.findSome? fun p => p.2.costs.find? (fun c => c.table = b.table && c.key = b.key)).getD b

/-- The mode byte in force: of the highest slot that sets one, else of the base image (R455). -/
def effMode (s : State) : Nat :=
  match s.cfg.slots.reverse.findSome? (fun p => p.2.mode) with
  | some m => m.toNat
  | none => s.cfg.baseMode

def setMode (s : State) (m : Nat) : State :=
  let s := wr0 (wr0 s CFG_BASE_MODE m) MTP_MODE_MODE (m % 8)
  let s := wr0 s LNK_TOPO_RING (bits m 3 1)
  forEach (List.range 4) s fun s p => wr0 s (inst LNK_STS_LOWRATE p) (bits m 4 1)

/-- Writes the effective table of a machine: of the highest slot that carries one, else of the base image. -/
def settleMach (s : State) (id : Nat) : State :=
  match (effMach s id).orElse fun _ => mapGet s.cfg.baseMach id with
  | some (ver, t) =>
    let s := { s with cfg := { s.cfg with mach := mapPut s.cfg.mach id t } }
    if id = 1 then wr0 s MIG_SM_VER ver else s
  | none => { s with cfg := { s.cfg with mach := mapDel s.cfg.mach id } }

def settleCurve (s : State) (id : Nat) : State :=
  match effCurve s id with
  | some c => { s with cfg := { s.cfg with curves := mapPut s.cfg.curves id c } }
  | none => { s with cfg := { s.cfg with curves := mapDel s.cfg.curves id } }

/-- Recomputes and writes what two contents of a slot name, and nothing else (R457). -/
def settleNamed (s : State) (imgs : List CfgImage) : State :=
  let s := forEach (imgs.flatMap namedHits) s fun s h => putField s 0 h.spec.tag h.fld (effective s h.base h.fld)
  let s := forEach (imgs.flatMap (fun i => i.mach.map (·.1))) s settleMach
  let s := forEach (imgs.flatMap (fun i => i.curves.map (·.id))) s settleCurve
  let s := { s with cfg := { s.cfg with costs := effCosts s } }
  if imgs.any (fun i => i.mode.isSome) then setMode s (effMode s) else s

/-- A slot's content changes. -/
def placeImage (s : State) (k : Nat) (img : Option CfgImage) (startup : Bool) : State :=
  let old := (slotImage s k).toList
  let s := { s with cfg := { s.cfg with slots := match img with
      | some i => mapPut s.cfg.slots k i
      | none => mapDel s.cfg.slots k } }
  let s := wr0 s (fldAt CFG_OVL_LOADED k 8) img.isSome.toNat
  let s := wr0 s (fldAt CFG_OVL_STARTUP k 8) startup.toNat
  let s := wr0 s (fldAt CFG_OVL_VERSION k 8) (match img with | some i => i.version.toNat | none => 0)
  settleNamed s (old ++ img.toList)

/-- Overlay contents that wait take effect in command order (R460, R461); their commands conclude in this frame. -/
def applyOverlays (s : State) : State :=
  let ws := s.cfg.waiting
  forEach ws { s with cfg := { s.cfg with waiting := [] } } fun s w =>
    let s := placeImage s w.slot w.img false
    let s := extend s 5 1 (match w.img with | some i => i.digest | none => 0)
    conclude (bump0 s CFG_APPLY_CNT 1) w.cmd stOk

/-! ### Staging (R458) -/

/-- A write of GO: the image that is read is kept until its verification is done. -/
def stageGo (s : State) (img : Option CfgImage) : State :=
  let s := wr0 (wr0 s CFG_STAGE_VALID 0) CFG_STAGE_BUSY 1
  { s with cfg := { s.cfg with staged := img } }

/-- Outcome of a staged image: BAD_FIELD for a failed read, signature or check, LIMIT for its length. -/
def stageStatus (s : State) : Nat :=
  match s.cfg.staged with
  | none => stBadField
  | some i => if !overlayOk s i then stBadField else if 4096 < i.imageLen then stLimit else stOk

def stageDone (s : State) : State :=
  let st := stageStatus s
  let s := wr0 (wr0 s CFG_STAGE_BUSY 0) CFG_STAGE_STATUS st
  if st = stOk then
    wr0 (wr0 s CFG_STAGE_VALID 1) CFG_STAGE_VERSION (match s.cfg.staged with | some i => i.version.toNat | none => 0)
  else
    bump0 { s with cfg := { s.cfg with staged := none } } CFG_STAGE_FAIL 1

/-! ### OVERLAY_APPLY (R459) -/

/-- The image that a command places: none for an empty one. -/
def overlaySource (s : State) (slot source : Nat) : Option CfgImage :=
  if source = 0 then s.cfg.staged
  else if source = 1 then s.cfg.stored.find? (·.slot = slot)
  else none

/-- An image's mode byte makes a change that R455 does not allow. -/
def modeDenied (s : State) (i : CfgImage) : Bool :=
  match i.mode with
  | none => false
  | some m =>
    let now := rd0 s CFG_BASE_MODE
    m.toNat / 8 ≠ now / 8 || (m.toNat % 8 ≠ now % 8 && !([0, 2].contains (m.toNat % 8) && [0, 2].contains (now % 8)))

def overlayChecks (s : State) (h : CmdHdr) (slot source : Nat) : Checks :=
  let img := overlaySource s slot source
  { denied := h.fn ≠ 0 || img.any (modeDenied s)
    badState := (source = 0 && (!flag s CFG_STAGE_VALID || img.any (·.slot ≠ slot))) || (source = 1 && img.isNone)
    badField := h.rsv || source = 3 }

def applyOverlay (h : CmdHdr) (slot : BitVec 3) (source : BitVec 2) (s : State) (c : CmdId) : State :=
  guarded s c (overlayChecks s h slot.toNat source.toNat) fun s =>
    { s with cfg := { s.cfg with
        waiting := s.cfg.waiting ++ [⟨c, slot.toNat, overlaySource s slot.toNat source.toNat⟩] } }

/-! ### The commands -/

def execCfgStageGo (img : Option CfgImage) (s : State) : Out :=
  act s fun s => if flag s CFG_STAGE_BUSY then dropWrite s 0 0x12000 stBadState CFG_STAGE_GO else stageGo s img

def execCfgStageDone (s : State) : Out := act s fun s => if flag s CFG_STAGE_BUSY then stageDone s else s

def execOverlayApply (h : CmdHdr) (slot : BitVec 3) (source : BitVec 2) (s : State) : Out :=
  act s fun s => submit s h (.overlayApply h slot source) 0x31 none (applyOverlay h slot source)

end Sys2Proof.Machine
end

