-- ==== Sys2Proof/Machine/Cost.lean ====
section
/-! DEFINITION. What a frame's work costs (04, 05, 17): budgets, micro-batches, paths, and the time that the cost tables give (R109, R110, R451,
R452). The manual does not state how the tables add up: the schedule of this model is the serial one, every stage of every wave after the
one before it (DESIGN CHOICE, log entry 21). -/
namespace Sys2Proof.Machine

def lexLt : List Nat → List Nat → Bool
  | a :: as, b :: bs => a < b || (a = b && lexLt as bs)
  | _, _ => false

def insertBy {α : Type} (lt : α → α → Bool) (x : α) : List α → List α
  | [] => [x]
  | y :: ys => if lt y x then y :: insertBy lt x ys else x :: y :: ys

/-- Insertion sort; equal items keep their order. -/
def sortBy {α : Type} (lt : α → α → Bool) (xs : List α) : List α := xs.foldr (insertBy lt) []

/-! ### Budgets (R54, R92, R100), in hub clocks -/

/-- Hub clocks in a microsecond. -/
def hubClocks : Nat := 2000

def rollClocks (s : State) : Nat := (rd0 s FRM_PERIOD - 75) * hubClocks

def plannable (s : State) : Nat := rollClocks s - rollClocks s * rd0 s FRM_RESERVE / 1000

/-- Admission-curve point of the level in force. -/
def curvePoint (s : State) : Nat :=
  let l := rd0 s SHL_ADM_LEVEL
  if l < 8 then bits (rd0 s SHL_ADM_CURVE0) (8 * l) 8 else bits (rd0 s SHL_ADM_CURVE1) (8 * (l - 8)) 8

def admission (s : State) : Nat := plannable s * (curvePoint s + 1) / 256

/-! ### Strikes (R91, R92) -/

/-- Strikes in the order in which they claim rows: revocations, then entries in order (R91). -/
def strikeKey (x : Strike) : List Nat :=
  let k := match x.owner with
    | .entry e => [0, e]
    | .pages e _ => [0, e]
    | .object o => [1, o]
    | .bands o _ => [1, o]
    | _ => [2, 0]
  (!x.revoke).toNat :: k

def sortStrikes (s : State) : State :=
  { s with strikes := sortBy (fun a b => lexLt (strikeKey a) (strikeKey b)) s.strikes }

/-- A RELEASE strike: of an entry, or of the pages that an edit dropped (R91, R185). -/
def isRelease (x : Strike) : Bool := !x.revoke && match x.owner with | .entry _ => true | .pages _ _ => true | _ => false

/-- A strike whose rows no schedule claims: each bank zeroes them in its idle cycles (R295). -/
def idleStrike (x : Strike) : Bool := !x.revoke && !isRelease x

/-! ### Sampling positions (R73, R246) -/

/-- Positions of a chunk that are prompt tokens. -/
def promptOf (x : Entry) (n : Nat) : Nat := n - x.pendValid.toNat

/-- A chunk of `n` positions absorbs its feed's last token and emits (R73). -/
def emits (x : Entry) (n : Nat) : Bool :=
  x.feedCur + promptOf x n = x.feedLen && x.go && decide (x.emitted < x.maxNew)

/-! ### Micro-batches (R103 to R105, R187) -/

/-- A micro-batch as it is filled: its tokens in order, and its highest EPRIO. -/
structure MbAcc where
  toks : List (Nat × Nat)
  eprio : Nat
  deriving DecidableEq, Repr

def mbSize : Nat := 128

def mbAdd (m : MbAcc) (p : Planned) (a n : Nat) : MbAcc :=
  ⟨m.toks ++ (upto a n).map (fun q => (p.entry, q)), max m.eprio p.eprio⟩

/-- A step goes whole into the current micro-batch or opens a new one. -/
def mbStep (ms : List MbAcc) (p : Planned) : List MbAcc :=
  match ms.reverse with
  | m :: rest =>
    if m.toks.length + p.toks ≤ mbSize then rest.reverse ++ [mbAdd m p p.base p.toks]
    else ms ++ [mbAdd ⟨[], 0⟩ p p.base p.toks]
  | [] => [mbAdd ⟨[], 0⟩ p p.base p.toks]

/-- The rest of a chunk, from position `a`, goes into free slots in order, then into new micro-batches. `unit`: positions that
the first micro-batch used must take whole. -/
def mbChunk (p : Planned) : List MbAcc → Nat → Nat → Nat → List MbAcc
  | [], a, n, _ =>
    (List.range (ceilDiv n mbSize)).map fun j => mbAdd ⟨[], 0⟩ p (a + mbSize * j) (min mbSize (n - mbSize * j))
  | m :: ms, a, n, unit =>
    let free := mbSize - m.toks.length
    if n = 0 then m :: ms
    else if free < unit || free = 0 then m :: mbChunk p ms a n unit
    else
      let k := min n free
      mbAdd m p a k :: mbChunk p ms (a + k) (n - k) 1

/-- Micro-batches of one reel and tenant in the order of formation. -/
def formMicros (pBi : Nat) (ps : List Planned) : List MbAcc :=
  let ms := (ps.filter (!·.chunk)).foldl mbStep []
  (ps.filter (·.chunk)).foldl (fun ms p => mbChunk p ms p.base p.toks (max 1 (min pBi (p.base + p.toks) - p.base))) ms

/-- P_BI of a reel: the greatest of its layers (R172, R187). -/
def reelPbi (r : Reel) : Nat := r.attn.foldl (fun m a => max m a.2.pBi) 0

/-- Micro-batches of a tenant on a reel in the order of formation, each with its highest EPRIO. -/
def pairMicros (s : State) (t r : Nat) : List (Nat × Micro) :=
  let ps := s.plan.planned.filter fun p => (entryOf s p.entry).tenant = t && (entryOf s p.entry).reel = r
  (formMicros (reelPbi (reelOf s r)) ps).map fun m => (m.eprio, ⟨r, t, m.toks⟩)

/-- Each place of an ordered list of pairs takes the pair's next micro-batch in the order of formation. -/
def dealMicros : List (Nat × Nat) → List Micro → List Micro
  | [], _ => []
  | (t, r) :: ks, ms =>
    match ms.find? fun m => m.tenant = t && m.reel = r with
    | some m => m :: dealMicros ks (ms.erase m)
    | none => dealMicros ks ms

/-- All micro-batches in the order in which they enter Roll: by their own EPRIO, tenant, reel and formation; of one reel and tenant an earlier
one comes first whatever their EPRIO, as none overtakes it (R105; DEDUCED, log entry 111). -/
def buildMicros (s : State) : List Micro :=
  let pairs := (s.plan.planned.map fun p => ((entryOf s p.entry).tenant, (entryOf s p.entry).reel)).eraseDups
  let all := pairs.flatMap fun p => (pairMicros s p.1 p.2).zipIdx.map fun x => ([7 - x.1.1, p.1, p.2, x.2], x.1.2)
  let places := (sortBy (fun a b => lexLt a.1 b.1) all).map fun x => (x.2.tenant, x.2.reel)
  dealMicros places (all.map (·.2))

/-! ### Paths (R106 to R108, R210) -/

def pathThresh (s : State) (cw : Nat) : Nat := bits (rd0 s SHL_PATH_CURVE) (8 * cw) 8

/-- The stages of a reel with their stage-plan indices. -/
def stageList (r : Reel) : List (Nat × Stage) := r.stages.zipIdx.map fun p => (p.2, p.1)

/-- A BANK_OK stage takes BANK for `n` tokens (R106, R108). -/
def takesBank (s : State) (g : Stage) (n thresh : Nat) : Bool :=
  let f := rd0 s SHL_POLICY_PATH_FORCE
  g.bankOk && (f = 2 || (f = 0 && decide (n ≤ thresh)))

/-- Bank token capacity of an EXPERT stage (R210): of the stack with the fewest rows of area B. -/
def expertCap (s : State) (r : Reel) (i : Nat) : Nat :=
  let rows := (List.range 32).foldl (fun m n => min m (rd0 s (inst BNK_STAGE_B_ROWS n))) 255
  let o := mapGetD r.inner i 0
  if o = 0 then 0 else rows * 1024 / (2 * o)

/-- Threshold of an EXPERT stage. -/
def expertThresh (s : State) (r : Reel) (i : Nat) (g : Stage) : Nat := min (pathThresh s g.codeW) (expertCap s r i)

def reelTokens (s : State) (slot : Nat) : Nat :=
  (s.plan.planned.filter (fun p => (entryOf s p.entry).reel = slot)).foldl (fun n p => n + p.toks) 0

/-- Threshold that the shot list fixes for an EXPERT stage, PATH_FORCE included (R107, R108). -/
def fixedThresh (s : State) (r : Reel) (i : Nat) (g : Stage) : Nat :=
  let f := rd0 s SHL_POLICY_PATH_FORCE
  if !g.bankOk || f = 1 then 0 else if f = 2 then expertCap s r i else expertThresh s r i g

/-! ### Pairs and stacks of the cache (R173) -/

/-- Ordinal of an ATTN stage among the reel's, in ascending LAYER. -/
def attnOrdinal (r : Reel) (stage : Nat) : Nat :=
  let layer := fun i => ((r.stages[i]?).map (·.layer)).getD 0
  (r.attn.filter fun a => layer a.1 < layer stage || (layer a.1 = layer stage && decide (a.1 < stage))).length

def splitOf (p : AttnP) : Nat := 2 ^ p.split

/-- Stack that holds page `n` of a pair. -/
def pairStack (sp pair n : Nat) : Nat := (pair + n % sp * (32 / sp)) % 32

/-! ### Bank programs and their placements (R203 to R205) -/

structure ProgHead where
  version : Nat
  kind : Nat
  codeW : Nat
  words : Nat
  placeCnt : Nat
  codeRow : Nat
  phases : Nat
  beats : List Nat
  tokMax : List Nat
  back : List Bool
  maxCyc : Nat
  place : Nat
  code : Nat
  rsv : Bool

def progHead (s : State) (a : Nat) : ProgHead :=
  let w := fun i => uNat s (a + 8 * i) 8
  { version := bits (w 0) 0 8, kind := bits (w 0) 8 8, codeW := bits (w 0) 16 3, words := bits (w 0) 32 13
    placeCnt := bits (w 1) 0 16, codeRow := bits (w 1) 16 18, phases := bits (w 2) 0 2
    beats := [bits (w 3) 0 14, bits (w 4) 0 14], tokMax := [bits (w 3) 16 8, bits (w 4) 16 8]
    back := [bit (w 3) 24, bit (w 4) 24], maxCyc := bits (w 5) 0 32, place := bits (w 6) 0 43, code := bits (w 7) 0 32
    rsv := bits (w 0) 19 13 ≠ 0 || w 0 / 2 ^ 45 ≠ 0 || w 1 / 2 ^ 34 ≠ 0 || w 2 / 4 ≠ 0
      || [w 3, w 4].any (fun x => bits x 14 2 ≠ 0 || x / 2 ^ 25 ≠ 0) || w 5 / 2 ^ 32 ≠ 0 || w 6 / 2 ^ 43 ≠ 0 || w 7 / 2 ^ 32 ≠ 0 }

structure PlaceRec where
  key : Nat
  chan : Nat
  unit : Nat
  rowBase : Nat
  expert : Nat
  p0 : Bool
  p1 : Bool
  rowCount : Nat
  out0 : Nat
  out1 : Nat
  rsv : Bool

def placeRecord (s : State) (a : Nat) : PlaceRec :=
  let x := uNat s a 4
  let y := uNat s (a + 4) 4
  let z := uNat s (a + 8) 8
  { key := bankKey (bits x 0 5) (bits x 5 5) (bits x 10 5), chan := bits x 5 5, unit := bits x 16 16, rowBase := bits y 0 17
    expert := bits y 17 9, p0 := bit y 26, p1 := bit y 27, rowCount := bits z 0 17, out0 := bits z 17 20, out1 := bits z 37 20
    rsv := bit x 15 || y / 2 ^ 28 ≠ 0 || z / 2 ^ 57 ≠ 0 }

def placements (s : State) (h : ProgHead) : List PlaceRec := (List.range h.placeCnt).map fun i => placeRecord s (h.place + 16 * i)

/-! ### The cost tables (R451, R452) -/

/-- Clocks of a cost record as hub clocks of 2.0 GHz: the array clock in force, 1.2 GHz of a bank unit, nanoseconds. -/
def hubOf (s : State) (clock n : Nat) : Nat :=
  if clock = 0 then n
  else if clock = 1 then ceilDiv (n * 2000) (if rd0 s AGE_ACLK_MHZ = 0 then 3300 else rd0 s AGE_ACLK_MHZ)
  else if clock = 2 then ceilDiv (n * 2000) 1200
  else 2 * n

/-- Hub clocks of `n` units under a record of a cost table in force. -/
def costOf (s : State) (table key n : Nat) : Nat :=
  match s.cfg.costs.find? fun c => c.table = table && c.key = key with
  | some c => hubOf s c.clock (c.base + ceilDiv (c.per * n) 256)
  | none => 0

def stageCost (r : Reel) (i : Nat) : StageCost := r.costs.getD i stageCostZero

/-- Tokens of the entries in a micro-batch: entry, first position, tokens. -/
def microParts (m : Micro) : List (Nat × Nat × Nat) :=
  (m.toks.map (·.1)).eraseDups.map fun e =>
    let ts := m.toks.filter (·.1 = e)
    (e, ts.foldl (fun a t => min a t.2) ((ts.headD (0, 0)).2), ts.length)

/-- Cells and post unit of an array for `n` tokens of a wave (R120, R134); the predicted time leaves retakes out. -/
def arrayCost (s : State) (c : StageCost) (n : Nat) : Nat :=
  hubOf s 1 (c.tiles * max (max n 16) c.streamClk + c.fixArray + c.post * n)

/-- A PROJ stage on BANK: one run of each micro-batch, and the post unit (R210, R452). -/
def bankCost (s : State) (c : StageCost) (ns : List Nat) : Nat :=
  sumNats (ns.map fun n => hubOf s 2 (c.bankFix + c.bankTok * n)) + hubOf s 1 (c.post * sumNats ns)

/-- An EXPERT stage at its expert bound: for each micro-batch of M tokens the record of M and of the lesser of the threshold and M (R109,
R452). -/
def boundCost (c : StageCost) (th : Nat) (ns : List Nat) : Nat :=
  sumNats (ns.map fun n => ((c.bounds.find? fun b => b.1 = n && b.2.1 = min th n).map (·.2.2)).getD 0)

/-- Positions of the half-open range `a` to `b` that lie in `lo` to `hi`. -/
def spanMeet (a b lo hi : Nat) : Nat := min b hi - max a lo

/-- Positions of a lane that some row of the tokens `base` to `base + n - 1` sees, page by page (R186, R192). -/
def laneSeen (p : AttnP) (pages : List KvPage) (lane base n : Nat) : Nat :=
  let lo := if p.window = 0 then 0 else base + 1 - p.window
  ((pages.zipIdx.foldl (fun a q =>
    let e := a.1 + pageLen q.1
    (e, if q.1.absent || q.2 % splitOf p ≠ lane then a.2
        else a.2 + spanMeet a.1 e lo (base + n) + spanMeet a.1 e 0 (min p.nsink (min lo (base + n))))) (0, 0))).2

/-- One walk (R192): passes of 256 query rows, each with its reads and its fixed clocks, and a clock for each position written. -/
def walkCost (s : State) (p : AttnP) (seen rows writes : Nat) : Nat :=
  let k := p.hdim + 4 * p.kvFmt
  costOf s 3 (k + 32) writes
    + ceilDiv rows 256 * (costOf s 3 k (2 * ceilDiv (seen * (64 * 2 ^ p.hdim)) 2048) + costOf s 3 (k + 16) 1)

/-- An ATTN stage for a micro-batch: the walks of each stack's engine one after another, the stacks at once; the queries to the stacks of the
other dies and the partial results from them cross the fabric (R18, R192). -/
def attnCost (s : State) (r : Reel) (i : Nat) (m : Micro) (die : Nat) : Nat :=
  let p := mapGetD r.attn i attnZero
  let walks := (microParts m).flatMap fun e => (List.range p.kvHeads).flatMap fun h => (List.range (splitOf p)).map fun l =>
    let pair := attnOrdinal r i * p.kvHeads + h
    (pairStack (splitOf p) pair l, walkCost s p (laneSeen p (entryOf s e.1).pages l e.2.1 e.2.2) (e.2.2 * p.qGroup) e.2.2)
  let busiest := (List.range 32).foldl (fun m k => max m (sumNats ((walks.filter (·.1 = k)).map (·.2)))) 0
  let bytes := 4 * m.toks.length * p.kvHeads * p.qGroup * (64 * 2 ^ p.hdim)
  let cross := (List.range 4).foldl (fun m d => if d = die then m else max m (costOf s 1 (die + 16 * d) bytes + costOf s 1 (d + 16 * die) bytes)) 0
  busiest + (if splitOf p * p.kvHeads = 0 then 0 else cross)

/-- Dies of the arrays of a position. -/
def posDies (r : Reel) (pos : Nat) : List Nat := ((r.arrays.filter (·.2.1 = pos)).map fun a => a.1 / 16).eraseDups

/-- A stage's inputs of `n` tokens come from the position of the record before it, to every die where they are used; the paths carry them at
once (R18, R127, R133). -/
def moveCost (s : State) (r : Reel) (i n : Nat) : Nat :=
  match r.stages[i]?, r.stages[i - 1]? with
  | some g, some f =>
    if i = 0 || g.kind = kSample then 0
    else
      (posDies r f.pos).foldl (fun m a => (posDies r g.pos).foldl (fun m b =>
        if a = b then m else max m (costOf s 1 (a + 16 * b) (n * g.inDim))) m) 0
  | _, _ => 0

/-- Sampling positions of a micro-batch (R246). -/
def samplingOf (s : State) (m : Micro) : List (Nat × Nat) :=
  m.toks.filter fun t => s.plan.planned.any fun p => p.entry = t.1 && (!p.chunk || (emits (entryOf s t.1) p.toks && t.2 + 1 = p.base + p.toks))

/-- The sampler's time for a position: its logits, and the pieces of its mask (R451). -/
def sampleCost (s : State) (r : Reel) (e : Nat) : Nat :=
  costOf s 8 0 (ceilDiv r.vocab 64) + (if (entryOf s e).maskTbl = 0 then 0 else costOf s 8 2 (pieces r.vocab))

/-- One stage for one wave. -/
def stageTime (s : State) (r : Reel) (i : Nat) (g : Stage) (n : Nat) (ms : List Micro) : Nat :=
  let c := stageCost r i
  let ns := ms.map (·.toks.length)
  let die := (posDies r g.pos).headD 0
  moveCost s r i (sumNats ns)
    + (if g.kind = kExpert && c.bounds ≠ [] then boundCost c (fixedThresh s r i g) ns
      else if g.kind = kProj && takesBank s g n (pathThresh s g.codeW) then bankCost s c ns
      else if g.kind = kSample then sumNats (ms.flatMap fun m => (samplingOf s m).map fun t => sampleCost s r t.1)
      else arrayCost s c (sumNats ns))
    + (if g.kind = kAttn then sumNats (ms.map fun m => attnCost s r i m die) else 0)
    + (if g.kind = kEmbed then costOf s 2 0 (sumNats ns * g.outDim) else 0)

/-- Lists of `n` items, the last one shorter. -/
def wavesOf {α : Type} (n : Nat) : Nat → List α → List (List α)
  | 0, _ => []
  | _, [] => []
  | fuel + 1, xs => xs.take n :: wavesOf n fuel (xs.drop n)

/-- A stage of the reel sends work to the bank units (R107). -/
def usesBank (s : State) (r : Reel) (i : Nat) (g : Stage) (n : Nat) : Bool :=
  (g.kind = kProj && takesBank s g n (pathThresh s g.codeW)) || (g.kind = kExpert && fixedThresh s r i g ≠ 0)

/-- What a reel costs once it carries a token (R91, R112): a switch of its bank stages' channels and back, and the prefetch of its STREAMED
stages at the board-memory rate, with the way to their die. -/
def reelFixed (s : State) (r : Reel) (n : Nat) : Nat :=
  sumNats ((stageList r).map fun p =>
    (if usesBank s r p.1 p.2 n then costOf s 4 0x101 2 else 0)
      + (if p.2.streamed then costOf s 7 0 p.2.wBytes + costOf s 1 (4 + 16 * (posDies r p.2.pos).headD 0) p.2.wBytes else 0))

/-- Row operations of a gather (R247). -/
def gatherTime (s : State) (p : PoolRow) : Nat :=
  match maskOf (reelOf s p.reel) p.tbl with
  | none => 0
  | some m =>
    let st := maskState s (maskHead s m.addr) p.mstate
    let op := fun k => costOf s 5 k 1
    op 1 + (st.rowCnt - 1) * op 4 + op 2 + op 3 + (if st.presMode = 1 then op 2 + op 3 else if st.presMode = 2 then op 3 else 0)

/-- Prompt tokens that the frame's chunks read over PCIe. -/
def promptBytes (s : State) : Nat :=
  4 * sumNats ((s.plan.planned.filter (·.chunk)).map fun p => promptOf (entryOf s p.entry) p.toks)

/-- Absmax tables that the Roll writes over PCIe (R169). -/
def tableTime (s : State) : Nat :=
  sumNats (s.reels.map fun r => if r.2.closed.isSome then costOf s 9 1 (32 + 32 * r.2.stages.length) else 0)

/-- Hub clocks of the shot list as it stands (R110): every wave of every reel through its stages, the reels' fixed costs, the gathers, and the
reads of prompt tokens. -/
def planTime (s : State) : Nat :=
  let ms := buildMicros s
  let reels := (ms.map (·.reel)).eraseDups
  sumNats (reels.map fun k =>
      let r := reelOf s k
      let n := reelTokens s k
      let own := ms.filter (·.reel = k)
      reelFixed s r n + sumNats ((wavesOf (r.waveM1 + 1) own.length own).map fun w => sumNats ((stageList r).map fun p => stageTime s r p.1 p.2 n w)))
    + sumNats (s.plan.pool.map (gatherTime s))
    + (if promptBytes s = 0 then 0 else costOf s 9 0 (promptBytes s))

/-! ### Pass 0 (R91, R92, R253 to R255) -/

/-- Refresh commands that a bank of the stack claims for Roll at the band of its temperature: one more than the intervals of Roll, 6,144 of them
in a window (R253). -/
def refreshCount (s : State) (k : Nat) : Nat :=
  ceilDiv ((rd0 s FRM_PERIOD - 75) * 6144) (1000 * windowOf s k (bandFor s k (rd0 s (inst STK_REF_STS_TEMP k)))) + 1

/-- The bound on its targeted refreshes (R255). -/
def targetedBound (s : State) (k : Nat) : Nat :=
  if rd0 s (inst STK_ACT_TH k) = 0 then 0 else ceilDiv (3 * ((rd0 s FRM_PERIOD - 75) * 1000 / 128)) (rd0 s (inst STK_ACT_TH k))

def refreshClaim (s : State) (k : Nat) : Nat := refreshCount s k + targetedBound s k

/-- Bank time of the refresh claim: the stack that claims most. -/
def refreshTime (s : State) : Nat :=
  (List.range 32).foldl (fun m k => max m (costOf s 6 0 (refreshCount s k) + costOf s 6 1 (targetedBound s k))) 0

/-- Rows that runs hold, by bank key. -/
def rowsByBank (runs : List (Nat × Nat × Nat)) : Map Nat := runs.foldl (fun m r => mapPut m r.1 (mapGetD m r.1 0 + r.2.2)) []

/-- Time to zero runs of rows: all banks at once, a row after the other in each (R241). -/
def strikeTime (s : State) (runs : List (Nat × Nat × Nat)) : Nat :=
  let n := (rowsByBank runs).foldl (fun m b => max m b.2) 0
  if n = 0 then 0 else costOf s 5 0x10 n

def tenantRows (s : State) (t : Nat) : List (Nat × Nat × Nat) := (s.strikes.filter fun x => x.revoke && x.tenant = t).flatMap (·.rows)

/-- Tenants in revocation, those first whose strike did not fit in the last frame (R92). -/
def revokedTenants (s : State) : List Nat :=
  let ts := ((s.strikes.filter (·.revoke)).map (·.tenant)).eraseDups
  (s.plan.strikeLate.filter ts.contains) ++ ts.filter fun t => !s.plan.strikeLate.contains t

/-- Rows of RELEASE strikes in entry order. -/
def releaseRuns (s : State) : List (Nat × Nat × Nat) := ((sortStrikes s).strikes.filter isRelease).flatMap (·.rows)

/-- What pass 0 claims: its clocks, the tenants whose strike it places, and those whose strike does not fit. -/
structure Pass0 where
  clocks : Nat
  placed : List Nat
  late : List Nat

def strikeRoom (s : State) (p : Pass0) (t : Nat) : Pass0 :=
  let c := strikeTime s ((p.placed ++ [t]).flatMap (tenantRows s)) - strikeTime s (p.placed.flatMap (tenantRows s))
  if p.clocks + c ≤ plannable s then ⟨p.clocks + c, p.placed ++ [t], p.late⟩ else { p with late := p.late ++ [t] }

/-- The fixed claims in order: refresh, revocation strikes, the first MIN_ROWS rows of RELEASE strikes, the sampler, and absmax tables. -/
def pass0 (s : State) : Pass0 :=
  let p := (revokedTenants s).foldl (strikeRoom s) ⟨refreshTime s, [], []⟩
  { p with clocks := p.clocks + strikeTime s (splitRows (rd0 s SHL_STRIKE_MIN_ROWS) (releaseRuns s)).1 + costOf s 8 1 1 + tableTime s }

end Sys2Proof.Machine
end

