-- ==== Sys2Proof/Machine/Plan.lean ====
section
/-! DEFINITION. The shot list (04): budgets, admission order, passes A and B, page appends (R82), micro-batches and paths. -/
namespace Sys2Proof.Machine

/-! ### Admission order (R94, R95) -/

structure Ordered where
  entry : Nat
  eprio : Nat
  atRisk : Bool
  deriving DecidableEq, Repr

def eligible (s : State) : List Nat :=
  (s.entries.filter (fun e => e.2.st = .feeding || e.2.st = .decoding)).map (·.1)

def ordered (s : State) (e : Nat) : Ordered :=
  let x := entryOf s e
  let risk := x.nextDue ≠ 0 && x.nextDue ≤ rd0 s OPEN_TICK + 1
  let af := rd0 s SHL_POLICY_AGE_FRAMES
  ⟨e, min 7 (x.prio + (if risk then rd0 s SHL_POLICY_URGENT_BOOST else 0) + (if af = 0 then 0 else x.age / af)), risk⟩

/-- The keys of R95 as numbers of which the lesser goes first. -/
def orderKey (s : State) (o : Ordered) : List Nat :=
  let x := entryOf s o.entry
  [7 - o.eprio, (!o.atRisk).toNat, (decide (x.nextDue = 0)).toNat, x.nextDue, (decide (x.st ≠ .decoding)).toNat, x.admitTick, o.entry]

def admissionOrder (s : State) : List Ordered :=
  sortBy (fun a b => lexLt (orderKey s a) (orderKey s b)) ((eligible s).map (ordered s))

/-! ### Page appends (R82, R179) -/

/-- Size code of the page appended to a list of `n` pages. -/
def growPsz (s : State) (n : Nat) : Nat := bits (rd0 s CSH_GROW) (4 * (n / 32)) 4

/-- Positions that the list reaches when it is filled to PL_CAP. -/
def reach (s : State) (x : Entry) : Nat :=
  (upto x.pages.length (x.plCap - x.pages.length)).foldl (fun a n => a + 16 * 2 ^ growPsz s n) (covered x.pages)

/-- Appending pages until the positions below `upto` are covered: done, stopped at PL_CAP, or short of pages. -/
inductive Cover where
  | ok (s : State)
  | cap
  | short

def coverTo : Nat → State → Nat → Nat → Cover
  | 0, s, e, n => if n ≤ covered (entryOf s e).pages then .ok s else .cap
  | fuel + 1, s, e, n =>
    let x := entryOf s e
    if n ≤ covered x.pages then .ok s
    else if x.plCap ≤ x.pages.length then .cap
    else
      let r := reelOf s x.reel
      match takePage s x.tenant (reelAttn r).hdim (reelNps r) (growPsz s x.pages.length) with
      | none => .short
      | some p => coverTo fuel (setEntry s e { x with pages := x.pages ++ [p] }) e n

/-- Pages appended since the list had `n` pages go to both copies, and count for the tenant. -/
def writePages (s : State) (e n : Nat) : State :=
  let x := entryOf s e
  let ws := (x.pages.drop n).flatMap fun p => leBytes 8 (pageWord p)
  if ws = [] then s
  else
    let s := uWrite (uWrite s (plAddr x 0 n) ws) (plAddr x 1 n) ws
    let t := mapGetD s.plan.added x.tenant 0 + (x.pages.length - n)
    { s with plan := { s.plan with added := mapSet 0 s.plan.added x.tenant t } }

/-! ### The builder's state -/

/-- `pln`, `adm`: what pass 0 leaves of the plannable Roll and of the admission budget; `used`: the time of the work placed so far. -/
structure PlanAcc where
  s : State
  pln : Nat
  adm : Nat
  used : Nat
  chunkClaims : Nat
  chunkPos : Nat

/-- The deferral reason of an item with which the work placed would take `t` (R99). -/
def misfit (a : PlanAcc) (t : Nat) : Option Nat :=
  if a.pln < t then some 0 else if a.adm < t then some 1 else none

def addRecord (a : PlanAcc) (d : Deferral) : PlanAcc :=
  { a with s := { a.s with plan := { a.s.plan with deferred := a.s.plan.deferred ++ [d] } } }

/-- The entry is deferred (R93, R94, R99): its drafts go unused. -/
def deferEntry (a : PlanAcc) (o : Ordered) (reason : Nat) : PlanAcc :=
  let x := entryOf a.s o.entry
  let s := setEntry a.s o.entry { x with age := min 65535 (x.age + 1) }
  let s := bump0 (dropDrafts s o.entry) SHL_DEFER_CNT 1
  addRecord { a with s := s } ⟨o.entry, reason, o.eprio, o.atRisk, min 65535 (x.age + 1), 0, 0, 0⟩

/-- The entry finishes with PAGE_CAP at this Slate (R82). -/
def capEntry (s : State) (e : Nat) : State := noteEnd (finishEntry (endFeed s e stExtent) e 4) e

def poolUsed (s : State) (reel tbl : Nat) : Nat := (s.plan.pool.filter (fun p => p.reel = reel && p.tbl = tbl)).length

/-- A sampling position takes the next row of its table's pool (R246). -/
def takeRow (s : State) (e pos mstate : Nat) : State :=
  let x := entryOf s e
  if x.maskTbl = 0 then s
  else
    let row := poolUsed s x.reel x.maskTbl
    { s with plan := { s.plan with pool := s.plan.pool ++ [⟨e, x.tenant, pos, x.reel, x.maskTbl, mstate, row⟩] } }

/-- The chunk's last position becomes a sampling position. -/
def takeChunkRow (s : State) (e n : Nat) : State :=
  let x := entryOf s e
  if emits x n then takeRow s e (x.lenCommit + n - 1) x.maskState else s

def putPlanned (s : State) (p : Planned) : State :=
  { s with plan := { s.plan with planned := s.plan.planned ++ [p] } }

/-! ### Pass A (R91, R96, R97) -/

/-- Remaining positions of a feed, a pending token included (R72). -/
def feedLeft (x : Entry) : Nat := x.feedLen - x.feedCur + x.pendValid.toNat

/-- The unit of R187: positions that the first chunk cannot split. -/
def prefixUnit (s : State) (x : Entry) : Nat :=
  let p := reelPbi (reelOf s x.reel)
  if x.lenCommit < p then min (feedLeft x) (p - x.lenCommit) else 1

def chunkCap : Nat := 65536

/-- The pages that `n` positions of the entry need, then its claim, the rise of the plan's time by it: what pass A does with a base step or a
minimum chunk. -/
def placeBase (a : PlanAcc) (o : Ordered) (n : Nat) (chunk : Bool) : PlanAcc :=
  let x := entryOf a.s o.entry
  match coverTo 512 a.s o.entry (x.lenCommit + n) with
  | .cap => { a with s := capEntry a.s o.entry }
  | .short => deferEntry a o 3
  | .ok s =>
    let s := writePages s o.entry x.pages.length
    let s := setEntry s o.entry { entryOf s o.entry with age := 0 }
    let s := putPlanned s ⟨o.entry, chunk, x.lenCommit, !chunk || x.pendValid, n, [], o.eprio, o.atRisk⟩
    let s := if chunk then takeChunkRow s o.entry n else takeRow s o.entry x.lenCommit x.maskState
    let t := planTime s
    match misfit a t with
    | some r => deferEntry a o r
    | none =>
      if chunk then { a with s := s, used := t, chunkClaims := a.chunkClaims + (t - a.used), chunkPos := a.chunkPos + n }
      else { a with s := s, used := t }

/-- An entry in FEEDING meets the limit of the frame's chunk positions before its pages are judged, so that CHUNK_CAP comes before PAGE_CAP; a
minimum chunk is cut to the positions that are left below the limit, and a unit of R187 that they do not hold is deferred with CHUNK_CAP
(R71, R82, R97, R99; DESIGN CHOICE, log entry 112). -/
def passA (a : PlanAcc) (o : Ordered) : PlanAcc :=
  let x := entryOf a.s o.entry
  if x.st = .decoding then placeBase a o 1 false
  else
    let unit := prefixUnit a.s x
    let room := chunkCap - a.chunkPos
    if room < unit then deferEntry a o 2
    else
      let n := min (min (max (min 16 (feedLeft x)) unit) room) (reach a.s x - x.lenCommit)
      if n < unit then { a with s := capEntry a.s o.entry } else placeBase a o n true

/-! ### Pass B (R96 to R98, R245, R246) -/

/-- An entry's planned item takes a new content. -/
def setPlanned (s : State) (e : Nat) (f : Planned → Planned) : State :=
  { s with plan := { s.plan with planned := s.plan.planned.map fun p => if p.entry = e then f p else p } }

/-- Pool rows of a table that base positions may still take in pass B: a row for each planned chunk that has none (R246). -/
def rowsKept (s : State) (reel tbl : Nat) : Nat :=
  (s.plan.planned.filter fun p => p.chunk && (entryOf s p.entry).reel = reel && (entryOf s p.entry).maskTbl = tbl
    && !s.plan.pool.any (·.entry = p.entry)).length

/-- Drafts of a step, one at a time while each fits: those that remain, the next draft's number, the mask state before it. -/
def placeDrafts (o : Ordered) : List Nat → Nat → Nat → PlanAcc → PlanAcc × Nat
  | [], k, _, a => (a, k)
  | d :: ds, k, ms, a =>
    let x := entryOf a.s o.entry
    let pos := x.lenCommit + 1 + k
    let m := maskOf (reelOf a.s x.reel) x.maskTbl
    let next := match m with | some m => maskNext a.s m ms d | none => 0
    if ctxMax ≤ pos || m.any (fun m => m.terminal = next)
        || (m.isSome && decide (16384 ≤ poolUsed a.s x.reel x.maskTbl + rowsKept a.s x.reel x.maskTbl)) then (a, k)
    else
      match coverTo 512 a.s o.entry (pos + 1) with
      | .ok s =>
        let s := takeRow (writePages s o.entry x.pages.length) o.entry pos next
        let s := setPlanned s o.entry fun p => { p with toks := k + 2 }
        let t := planTime s
        if (misfit a t).isSome then (a, k) else placeDrafts o ds (k + 1) next { a with s := s, used := t }
      | _ => (a, k)

def extendStep (a : PlanAcc) (o : Ordered) : PlanAcc :=
  let x := entryOf a.s o.entry
  let (a, k) := placeDrafts o x.drafts 0 x.maskState a
  let n := x.drafts.length
  let s := setPlanned a.s o.entry fun p => { p with toks := 1 + k, drafts := x.drafts.take k }
  let y := entryOf s o.entry
  let s := setEntry (bump0 s CSH_DRAFT_REJ (n - k)) o.entry { y with drafts := [], lenTent := y.lenCommit + 1 + k }
  let a := { a with s := s }
  if k < n then addRecord a ⟨o.entry, 4, o.eprio, o.atRisk, 0, k, n - k, 0⟩ else a

/-- Growth steps of a chunk: positions held, and whether a step was refused (R97, R98). -/
def growChunk (o : Ordered) (share lim : Nat) : Nat → Nat → PlanAcc → PlanAcc × Nat × Bool
  | 0, n, a => (a, n, false)
  | fuel + 1, n, a =>
    let x := entryOf a.s o.entry
    let step := if n + 16 ≤ lim then 16 else if lim = feedLeft x then lim - n else 0
    if step = 0 then (a, n, false)
    else
      match coverTo 512 a.s o.entry (x.lenCommit + n + step) with
      | .ok s =>
        let s := setPlanned (writePages s o.entry x.pages.length) o.entry fun p => { p with toks := n + step }
        let s := if emits x (n + step) then takeChunkRow s o.entry (n + step) else s
        let t := planTime s
        let claims := a.chunkClaims + (t - a.used)
        if share < claims * 1000 || (misfit a t).isSome then (a, n, true)
        else growChunk o share lim fuel (n + step) { a with s := s, used := t, chunkClaims := claims, chunkPos := a.chunkPos + step }
      | _ => (a, n, true)

/-- The chunk grows; a position that absorbs the feed's last token takes its pool row with the step that reaches it. -/
def extendChunk (share : Nat) (a : PlanAcc) (o : Ordered) (n : Nat) : PlanAcc :=
  let x := entryOf a.s o.entry
  let lim := min (min (rd0 a.s SHL_CHUNK_MAX) 2048) (min (feedLeft x) (n + (chunkCap - a.chunkPos)))
  let (a, m, trimmed) := growChunk o share lim 129 n a
  let s := setEntry a.s o.entry { entryOf a.s o.entry with lenTent := x.lenCommit + m }
  let a := { a with s := s }
  if trimmed then addRecord a ⟨o.entry, 4, o.eprio, o.atRisk, 0, 0, 0, m⟩ else a

def passB (share : Nat) (a : PlanAcc) (o : Ordered) : PlanAcc :=
  match a.s.plan.planned.find? (·.entry = o.entry) with
  | none => a
  | some p => if p.chunk then extendChunk share a o p.toks else extendStep a o

/-! ### Path records and the switch points (R107, R113) -/

def layersOf (r : Reel) : List Nat := (List.range 256).filter fun l => r.stages.any fun g => g.layer = l && g.kind ≠ kSample

def pathRecord (s : State) (slot layer n : Nat) : PathRec :=
  let r := reelOf s slot
  let projs := ((stageList r).filter fun p => p.2.layer = layer && p.2.kind = kProj).take 8
  let on := projs.map fun p => takesBank s p.2 n (pathThresh s p.2.codeW)
  let exps := (stageList r).filter fun p => p.2.layer = layer && p.2.kind = kExpert && p.2.bankOk
  { layer := layer, reel := slot, projPath := (on.zipIdx.map fun p => p.1.toNat * 2 ^ p.2).foldl (· + ·) 0
    projCount := projs.length
    thresh := match exps with
      | [] => 0
      | e :: es => es.foldl (fun m p => min m (expertThresh s r p.1 p.2)) (expertThresh s r e.1 e.2)
    retakes := 0, expArray := 0, expBank := 0 }

def buildPaths (s : State) : State :=
  let slots := (List.range 4).filter fun r => 0 < reelTokens s r
  let recs := slots.flatMap fun r => (layersOf (reelOf s r)).map fun l => pathRecord s r l (reelTokens s r)
  let bank := slots.flatMap fun r =>
    ((stageList (reelOf s r)).filter fun p =>
      p.2.kind = kProj && takesBank s p.2 (reelTokens s r) (pathThresh s p.2.codeW)).map fun p => (r, p.1)
  { s with plan := { s.plan with paths := recs, bankStages := bank } }

/-- Memory channels of a stage's placements in a stack. -/
def stageChans (ps : List PlaceRec) (k : Nat) : Nat :=
  ((ps.filter fun p => bankStack p.key = k).map (·.chan)).eraseDups.foldl (fun m c => m + 2 ^ c) 0

/-- The shot list fixes the memory channels of the stages that it sends to the bank units (R107). -/
def buildChannels (s : State) : State :=
  let slots := (List.range 4).filter fun r => 0 < reelTokens s r
  let cs := slots.flatMap fun k =>
    ((stageList (reelOf s k)).filter fun p => usesBank s (reelOf s k) p.1 p.2 (reelTokens s k)).flatMap fun p =>
      let ps := placements s (progHead s p.2.progAddr)
      ((ps.map fun q => bankStack q.key).eraseDups).map fun n => (k, p.1, n, stageChans ps n)
  { s with plan := { s.plan with channels := cs } }

/-! ### The plan of a frame -/

/-- Records of R113 lie in admission order. -/
def sortRecords (os : List Ordered) (ds : List Deferral) : List Deferral :=
  os.flatMap fun o => ds.filter (·.entry = o.entry)

/-- RGN_MASK_POOL of every stack: the most pool rows used in one of its mask banks. -/
def settlePool (s : State) : State :=
  let used := (List.range 4).flatMap fun r => (upto 1 16).map fun t => (pieces (reelOf s r).vocab, poolUsed s r t)
  forEach (List.range 32) s fun s k =>
    let n := (used.filter (fun u => k < u.1)).foldl (fun m u => max m u.2) 0
    let s := wr0 s (inst RGN_MASK_POOL_USED k) n
    wr0 s (inst RGN_MASK_POOL_PEAK k) (max n (rd0 s (inst RGN_MASK_POOL_PEAK k)))

/-- Banks of a stack. -/
def stackBanks : Nat := 1024

/-- An empty plan with this Slate's budgets and the claims of pass 0; REFRESH_BUDGET counts the refresh commands that all banks claim. -/
def openPlan (s : State) : State :=
  let p := pass0 s
  { s with plan := { planZero with planNs := plannable s / 2, admNs := admission s / 2, level := rd0 s SHL_ADM_LEVEL
                                   refreshBudget := sumNats ((List.range 32).map fun k => stackBanks * refreshClaim s k)
                                   strikeTenants := p.placed, strikeLate := p.late
                                   refClaim := (List.range 32).map fun k => (k, refreshClaim s k) } }

/-- Pass C (R91, R92): from what pass B leaves of the plannable Roll, the remaining rows of RELEASE strikes, a row for the time that the cost table
gives in each bank, and then blocks of the dailies, 2.048 us of each stack's digest engine (R258). -/
def passC (s : State) (left : Nat) : State :=
  let rest := (splitRows (rd0 s SHL_STRIKE_MIN_ROWS) (releaseRuns s)).2
  let row := max 1 (costOf s 5 0x10 1)
  let cap := left / row
  let taken := (rowsByBank rest).foldl (fun m b => max m (min b.2 cap)) 0
  { s with plan := { s.plan with strikeRows := cap, dailyClaim := (left - taken * row) / 4096 } }

/-- The builder's passes (R91 to R99), then micro-batches and paths. The predicted Roll time is that of the work placed behind the claims of
pass 0, so that it lies within the plannable Roll (R54, R110). -/
def buildPlan (s : State) : State :=
  let pln := plannable s
  let adm := admission s
  let fixed := (pass0 s).clocks
  let s := openPlan s
  let os := admissionOrder s
  let a : PlanAcc := ⟨s, pln - fixed, adm - fixed, 0, 0, 0⟩
  let a := os.foldl passA a
  let a := os.foldl (passB (adm * rd0 s SHL_CHUNK_SHARE)) a
  let s := passC a.s (pln - fixed - a.used)
  let s := { s with plan := { s.plan with deferred := sortRecords os s.plan.deferred, predNs := (min fixed pln + a.used) / 2 } }
  let s := { s with plan := { s.plan with micros := buildMicros s } }
  settlePool (buildChannels (buildPaths s))

/-! ### The gather runs (R219, R247, R248) -/

/-- Pool rows in admission order, and within an entry in position order. -/
def gatherOrder (s : State) : List PoolRow :=
  s.plan.planned.flatMap fun p => sortBy (fun a b => decide (a.pos < b.pos)) (s.plan.pool.filter (·.entry = p.entry))

/-- Row operations of a bank's gather run. -/
def gatherRowOps (s : State) (key : Nat) (ps : List PoolRow) : Nat :=
  sumNats (ps.map fun p =>
    match maskOf (reelOf s p.reel) p.tbl with
    | none => 0
    | some m =>
      if (List.range (pieces (reelOf s p.reel).vocab)).any fun k => maskBank (maskIndex p.reel p.tbl) k = key then
        (gatherOps (maskState s (maskHead s m.addr) p.mstate) p.entry 0 0).length
      else 0)

/-- Mask banks that a frame gathers in. -/
def gatherBanks (s : State) : List Nat :=
  (s.plan.pool.flatMap fun p => (List.range (pieces (reelOf s p.reel).vocab)).map fun k => maskBank (maskIndex p.reel p.tbl) k).eraseDups

/-- The bookkeeping of one bank's gather run: the launch clears its ready bit, and HALT sets it; the run and its instruction clocks count, a
clock for each row operation and 32 for HALT, with the `clk` that the program's other instructions take, which the manual does not list
(log entry 114). -/
def gatherRun (s : State) (ps : List PoolRow) (key clk : Nat) : State :=
  let k := bankStack key
  let f := inst (if bankChan key = 30 then BNK_READY_CH30 else BNK_READY_CH31) k
  let s := bump0 (wr0 s f (setBit (rd0 s f) (key % 32) true)) (inst BNK_RUN_CNT k) 1
  bump0 s (inst BNK_UNIT_CYC k) (gatherRowOps s key ps + 32 + clk)

/-- The gather runs of a frame, one for each mask bank: every position's piece in every stack. -/
def gatherAll (s : State) (clk : List Nat) : State :=
  let ps := gatherOrder s
  let banks := gatherBanks s
  let s := forEach ps s fun s p => forEach (List.range (pieces (reelOf s p.reel).vocab)) s fun s k => gatherPiece s p k
  forEach banks.zipIdx s fun s b => gatherRun s ps b.1 (clk.getD b.2 0)

end Sys2Proof.Machine
end

