-- ==== Sys2Proof/Machine/Reel.lean ====
section
/-! DEFINITION. Reels (05 to 11): the tables of a reel image, the checks of REEL_LOAD, arrays bound to positions, and REEL_UNLOAD. -/
namespace Sys2Proof.Machine

/-! ### Reading tables -/

/-- The object of an address is UNMAPPING. -/
def unmapping (s : State) (a : Nat) : Bool :=
  match objAt s a with | some o => (objOf s o).st = .unmapping | none => false

/-- A table of `n` bytes named by an image: an UNMAPPING object, misalignment, a range that is not mapped in one object. Of a table
of no bytes only the range is not judged (R12). -/
def tableChecks (s : State) (a n algn : Nat) : Checks :=
  { badState := unmapping s a, badField := a % algn ≠ 0, extent := n ≠ 0 && !insideObj s a n }

def allChecks (ks : List Checks) : Checks := ks.foldl bothChecks {}

/-- Checks that apply where `b` holds. -/
def checksIf (b : Bool) (ks : List Checks) : List Checks := if b then ks else []

/-- Reel image header (R511). -/
structure ReelHead where
  magic : Nat
  version : Nat
  vocab : Nat
  maskCnt : Nat
  plan : Nat
  cost : Nat
  costCnt : Nat
  expb : Nat
  expbCnt : Nat
  mask : Nat
  rsv : Bool

def reelHead (s : State) (a : Nat) : ReelHead :=
  let w := fun i => uNat s (a + 8 * i) 8
  { magic := bits (w 0) 0 32, version := bits (w 0) 32 16, vocab := bits (w 1) 0 18 + 1, maskCnt := bits (w 1) 32 5
    plan := bits (w 2) 0 43, cost := bits (w 3) 0 43, costCnt := bits (w 4) 0 16, expb := bits (w 5) 0 43
    expbCnt := bits (w 6) 0 32, mask := bits (w 7) 0 43
    rsv := w 0 / 2 ^ 48 ≠ 0 || bits (w 1) 18 14 ≠ 0 || w 1 / 2 ^ 37 ≠ 0 || w 2 / 2 ^ 43 ≠ 0 || w 3 / 2 ^ 43 ≠ 0
      || w 4 / 2 ^ 16 ≠ 0 || w 5 / 2 ^ 43 ≠ 0 || w 6 / 2 ^ 32 ≠ 0 || w 7 / 2 ^ 43 ≠ 0 }

/-- Stage-plan header (R122). -/
structure PlanHead where
  stageCnt : Nat
  posCnt : Nat
  waveM1 : Nat
  flightM1 : Nat
  home : Nat
  stages : Nat
  binds : Nat
  rsv : Bool

def planHead (s : State) (a : Nat) : PlanHead :=
  let w := fun i => uNat s (a + 8 * i) 8
  { stageCnt := bits (w 0) 0 16, posCnt := bits (w 0) 16 7, waveM1 := bits (w 0) 24 3, flightM1 := bits (w 0) 28 2
    home := bits (w 0) 32 6, stages := bits (w 1) 0 43, binds := bits (w 2) 0 43
    rsv := bits (w 0) 23 1 ≠ 0 || bits (w 0) 27 1 ≠ 0 || bits (w 0) 30 2 ≠ 0 || w 0 / 2 ^ 38 ≠ 0 || w 1 / 2 ^ 43 ≠ 0
      || w 2 / 2 ^ 43 ≠ 0 || w 3 ≠ 0 }

/-- A stage record (R123), and whether a reserved bit of it is nonzero. -/
def stageRecord (s : State) (a : Nat) : Stage × Bool :=
  let w := fun i => uNat s (a + 8 * i) 8
  ({ kind := bits (w 0) 0 8, layer := bits (w 0) 8 8, pos := bits (w 0) 16 6, bankOk := bit (w 0) 22, streamed := bit (w 0) 23
     codeW := bits (w 0) 24 3, sub := bits (w 0) 27 3, experts := bits (w 0) 32 10, topk := bits (w 0) 42 5
     inDim := bits (w 1) 0 20, outDim := bits (w 1) 20 20, obj := bits (w 1) 40 16, wAddr := bits (w 2) 0 43
     cbAddr := bits (w 3) 0 43, progAddr := bits (w 4) 0 43, calAddr := bits (w 5) 0 43, kparam := bits (w 6) 0 43
     wBytes := bits (w 7) 0 40, costIdx := bits (w 7) 40 16 },
   bits (w 0) 30 2 ≠ 0 || w 0 / 2 ^ 47 ≠ 0 || w 1 / 2 ^ 56 ≠ 0 || (upto 2 5).any (fun i => w i / 2 ^ 43 ≠ 0) || w 7 / 2 ^ 56 ≠ 0)

/-- A binding record (R124). -/
def bindRecord (s : State) (a : Nat) : Binding × Bool :=
  let w := uNat s a 8
  (⟨bits w 0 6 + 1, bits w 8 4, bits w 16 10⟩, bits w 6 2 ≠ 0 || bits w 12 4 ≠ 0 || w / 2 ^ 26 ≠ 0)

/-- An ATTN parameter record (R171). -/
def attnRecord (s : State) (a : Nat) : AttnP × Bool :=
  let w0 := uNat s a 8
  let w1 := uNat s (a + 8) 8
  (⟨bits w0 0 2, bits w0 8 8, bits w0 16 5, bits w0 24 1, bits w0 25 3, BitVec.ofNat 32 (bits w0 32 32), bits w1 0 22,
    bits w1 32 8, bits w1 40 8⟩,
   bits w0 2 6 ≠ 0 || bits w0 21 3 ≠ 0 || bits w0 28 4 ≠ 0 || bits w1 22 10 ≠ 0 || w1 / 2 ^ 48 ≠ 0)

/-- Rows and columns of the matrices of a stage, in the order in which they follow one another (R144, R147, R513). -/
def stageMats (vocab inner : Nat) (g : Stage) : List (Nat × Nat) :=
  if g.kind = kEmbed then [(vocab, g.inDim)]
  else if g.kind = kExpert then
    (List.replicate g.experts [(inner, g.inDim), (inner, g.inDim), (g.outDim, inner)]).flatten
  else if weightKind g.kind then [(g.outDim, g.inDim)]
  else []

def matGroups (m : Nat × Nat) : Nat := ceilDiv m.1 128 * (m.2 / 128)

/-- Bytes of a matrix's codes (R144). -/
def matBytes (cw : Nat) (m : Nat × Nat) : Nat := 16 * codeWidth cw * m.1 * (m.2 / 128)

/-- Bytes of a group record (R145). -/
def groupRecBytes (cw : Nat) : Nat := max 8 (2 ^ codeWidth cw) + 8

/-- Calibrated-scale records of a stage (R149). -/
def calCount (inner : Nat) (g : Stage) : Nat :=
  if g.kind = kExpert then g.inDim / 128 + g.experts * (inner / 128)
  else if g.kind = kProj || g.kind = kRoute || g.kind = kLmhead then g.inDim / 128
  else 0

/-- Bytes of the kind-specific parameters that have a layout (R171, R513); a byte for those that have none. -/
def kparamBytes (k : Nat) : Nat :=
  if k = kAttn then 16 else if k = kExpert then 8 else if k = kNorm || k = kRope then 1 else 0

def innerOf (s : State) (g : Stage) : Nat := if g.kind = kExpert then bits (uNat s g.kparam 8) 0 17 else 0

/-! ### Checks of the tables -/

/-- Positive, normal and finite. -/
def f32Pos (v : F32) : Bool := v.toNat < 2 ^ 31 && 1 ≤ v.toNat / 2 ^ 23 && v.toNat / 2 ^ 23 ≤ 254

/-- First index and count of the expert-bound records that a stage's cost record names (R452). -/
def boundSpan (s : State) (h : ReelHead) (g : Stage) : Nat × Nat :=
  let c := h.cost + 32 * g.costIdx
  (uNat s (c + 0x1C) 4, uNat s (c + 0x18) 2)

/-- The stage's own addresses and indices (R512): an address that its kind does not use is not judged, and the tables of a program
are judged where its header can be read. -/
def stageNames (s : State) (h : ReelHead) (g : Stage) (rsv : Bool) : Checks :=
  let inner := innerOf s g
  let ms := stageMats h.vocab inner g
  let p := progHead s g.progAddr
  let (i0, n) := boundSpan s h g
  allChecks
    ({ badState := (objOf s g.obj).st = .unmapping, badField := rsv
       extent := h.costCnt ≤ g.costIdx || (insideObj s h.cost (32 * h.costCnt) && n ≠ 0 && h.expbCnt < i0 + n) }
     :: checksIf (kparamBytes g.kind ≠ 0) [tableChecks s g.kparam (kparamBytes g.kind) 1]
     ++ checksIf (weightKind g.kind)
          [tableChecks s g.wAddr (sumNats (ms.map (matBytes g.codeW))) 1,
           tableChecks s g.cbAddr (sumNats (ms.map matGroups) * groupRecBytes g.codeW) 1]
     ++ checksIf (calCount inner g ≠ 0) [tableChecks s g.calAddr (8 * calCount inner g) 1]
     ++ checksIf g.bankOk [tableChecks s g.progAddr 64 1]
     ++ checksIf (g.bankOk && insideObj s g.progAddr 64)
          [tableChecks s p.place (16 * p.placeCnt) 8, tableChecks s (g.progAddr + p.code) (4 * p.words) 1])

/-- Checks of one stage record (R125, R513). OBJ is judged for every kind; W_BYTES of 0 is not held against the object (R12). -/
def stageChecks (s : State) (vocab posCnt : Nat) (g : Stage) : Checks :=
  let weight := weightKind g.kind
  let o := objOf s g.obj
  let inner := innerOf s g
  let expert := g.kind = kExpert
  { badState := o.st = .unmapping
    badField := g.kind = 0 || 12 < g.kind || 5 < g.codeW || (g.bankOk && g.kind ≠ kProj && g.kind ≠ kExpert)
      || (g.bankOk && g.progAddr = 0) || g.inDim = 0 || g.outDim = 0 || (weight && g.inDim % 128 ≠ 0)
      || (g.kind = kEmbed && g.outDim ≠ g.inDim) || (g.kind = kLmhead && g.outDim ≠ vocab)
      || (expert && (inner = 0 || inner % 128 ≠ 0 || uNat s g.kparam 8 / 2 ^ 17 ≠ 0))
    limit := (g.kind ≠ kSample && posCnt ≤ g.pos) || 512 < g.experts || 16 < g.topk || 65536 < g.inDim
      || (if g.kind = kLmhead then 262144 else 65536) < g.outDim || (expert && 65536 < inner)
    extent := o.st = .free || (g.wBytes ≠ 0 && (o.base + o.size * 2 ^ 21 < g.wAddr + g.wBytes || g.wAddr < o.base)) }

/-- Stages of two kinds at one position (R125). -/
def mixedKinds (gs : List Stage) : Bool :=
  gs.any fun g => g.kind ≠ kSample && gs.any fun h => h.kind ≠ kSample && h.pos = g.pos && h.kind ≠ g.kind

/-- Slots that a position's arrays hold (R136). -/
def slotCount (waveM1 flightM1 : Nat) (home : Bool) : Nat :=
  if home then (flightM1 + 1) * (waveM1 + 1) else 2 * (waveM1 + 1)

/-- The slots of position `p` exceed the activation area (R136). -/
def slotsTooBig (h : PlanHead) (p : Nat) (b : Binding) : Bool :=
  14 * 1024 < slotCount h.waveM1 h.flightM1 (p = h.home) * (b.slotM1 + 1) * 16

/-- Checks of the plan header's counts and of the bindings (R125). -/
def bindChecks (h : PlanHead) (bs : List Binding) : Checks :=
  { badField := bs.any (fun b => b.dieMask = 0)
    limit := 16384 < h.stageCnt || h.posCnt = 0 || 64 < h.posCnt || 64 < sumNats (bs.map (·.replicas))
    extent := bs.zipIdx.any fun b => slotsTooBig h b.2 b.1 }

/-- Checks over the stages of a plan that has any (R125). -/
def wholePlan (h : PlanHead) (gs : List Stage) : Checks :=
  { badField := mixedKinds gs
      || !gs.any (fun g => g.kind = kResid && g.pos = h.home) || gs.any (fun g => g.pos = h.home && g.kind ≠ kResid && g.kind ≠ kSample)
      || (gs.filter (fun g => g.kind = kSample)).length ≠ 1 || (gs.getLast?).all (fun g => g.kind ≠ kSample) }

/-- A group record of R145 that R146 refuses. -/
def groupBad (s : State) (cw a : Nat) : Bool :=
  let e := max 8 (2 ^ codeWidth cw)
  let ws := uNat s (a + e) 2
  ws % 2 ^ 15 = 0 || bit ws 15 || bits ws 10 5 = 31 || uNat s (a + e + 2) 6 ≠ 0
    || (cw = 0 && uNat s (a + 4) 4 ≠ 0)

/-- A calibrated-scale record that R150 refuses. -/
def calBad (s : State) (a : Nat) : Bool :=
  !f32Pos (BitVec.ofNat 32 (uNat s a 4)) || !f32Pos (BitVec.ofNat 32 (uNat s (a + 4) 4))

/-- R146 and R150 over a stage. -/
def scalesBad (s : State) (vocab : Nat) (g : Stage) : Bool :=
  let inner := innerOf s g
  (List.range (sumNats ((stageMats vocab inner g).map matGroups))).any (fun i => groupBad s g.codeW (g.cbAddr + i * groupRecBytes g.codeW))
    || (List.range (calCount inner g)).any fun i => calBad s (g.calAddr + 8 * i)

/-- ATTN parameter records (R172). -/
def attnChecks (s : State) (gs : List Stage) : Checks :=
  let rs := (gs.filter (fun g => g.kind = kAttn)).map fun g => attnRecord s g.kparam
  let same := fun (a b : AttnP) =>
    a.hdim = b.hdim && a.kvHeads = b.kvHeads && a.qGroup = b.qGroup && a.kvFmt = b.kvFmt && a.split = b.split
  { badField := rs.any (fun r => r.2 || r.1.hdim = 3 || r.1.kvHeads = 0 || r.1.qGroup = 0 || !f32Pos r.1.qkScale)
      || rs.any fun r => rs.any fun q => !same r.1 q.1
    limit := rs.any fun r => 128 < r.1.kvHeads || 16 < r.1.qGroup || 5 < r.1.split || 2097152 < r.1.window || 128 < r.1.pBi }

/-! ### Bank programs (R203 to R207, R286) -/

/-- First staging row of a bank (R209). -/
def stageRow0 (s : State) (key : Nat) : Nat :=
  let k := bankStack key
  98304 - (rd0 s (inst BNK_STAGE_A_ROWS k) + rd0 s (inst BNK_STAGE_B_ROWS k))

/-- Units of phase `p` of one stack, of one expert for EXPERT. -/
def phaseUnits (ps : List PlaceRec) (p stack expert : Nat) : Nat :=
  (ps.filter fun r => (if p = 0 then r.p0 else r.p1) && bankStack r.key = stack && r.expert = expert).length

/-- A collection of phase `p` exceeds the collector's inbox. -/
def inboxFull (h : ProgHead) (ps : List PlaceRec) (p : Nat) : Bool :=
  ps.any fun r => 65536 < phaseUnits ps p (bankStack r.key) r.expert * h.beats.getD p 0 * h.tokMax.getD p 0 * 8

def phaseBad (h : ProgHead) (p : Nat) : Bool :=
  let b := h.beats.getD p 0
  b = 0 || 8192 < b || h.tokMax.getD p 0 = 0

/-- Checks of a stage's bank program (R206). -/
def progChecks (s : State) (g : Stage) (copiesOk : Bool) : Checks :=
  let h := progHead s g.progAddr
  let ps := placements s h
  let phases := if g.kind = kExpert then 2 else 1
  { badField := h.rsv || h.version ≠ 1 || h.kind ≠ g.kind || h.codeW ≠ g.codeW
      || (List.range h.words).any (fun i => (decodeCode (BitVec.ofNat 32 (uNat s (g.progAddr + h.code + 4 * i) 4))).isNone)
      || h.phases ≠ phases || h.back.getD (phases - 1) false || (g.kind = kExpert && !h.back.getD 0 false)
      || ps.any (fun r => r.rsv || 30 ≤ r.chan) || ps.zipIdx.any (fun r => ps.zipIdx.any fun q => r.2 < q.2 && r.1.key = q.1.key)
      || (g.kind = kExpert && ps.any fun r => ps.any fun q => r.expert = q.expert && bankStack r.key ≠ bankStack q.key)
      || !copiesOk
    limit := h.words = 0 || 4096 < h.words || h.placeCnt = 0 || 30720 < h.placeCnt || (List.range phases).any (phaseBad h)
      || ps.any fun r => 98304 < r.rowBase + r.rowCount
    extent := ps.any (fun r => !stagingGran s r.key 47 || r.rowBase < 2048 * bound s (bankStack r.key) (bankChan r.key)
          || stageRow0 s r.key < r.rowBase + r.rowCount || r.rowCount < h.codeRow + ceilDiv (4 * h.words) 1024
          || rd0 s (inst BNK_STAGE_A_ROWS (bankStack r.key)) * 1024 < g.inDim * 2)
      || (List.range phases).any (inboxFull h ps) }

/-- Matrices of a BANK_OK stage in R144 order with their offsets from W_ADDR. -/
def matOffsets (cw : Nat) : Nat → List (Nat × Nat) → List Nat
  | _, [] => []
  | a, m :: ms => a :: matOffsets cw (a + matBytes cw m) ms

/-- What R286 asks of a BANK_OK stage's object. -/
def stripeStage (s : State) (g : Stage) : Checks :=
  let o := objOf s g.obj
  let ps := placements s (progHead s g.progAddr)
  let offs := matOffsets g.codeW (g.wAddr - o.base) (stageMats 0 (innerOf s g) g)
  let unitOf := fun (r : PlaceRec) =>
    o.stripe.units.filter fun u => bankKey u.stack.toNat u.chan.toNat u.bank.toNat = r.key
  { badField := o.layout ≠ 2 || ps.any (fun r => unitOf r = []) || offs.any fun a => !o.stripe.mats.any fun m => m.voff.toNat = a
    extent := ps.any fun r => !(unitOf r).any fun u =>
      2048 * u.gran.toNat ≤ r.rowBase && r.rowBase + r.rowCount ≤ 2048 * (u.gran.toNat + o.stripe.ngran.toNat) }

/-! ### Mask tables, stream buffer, expert bounds -/

/-- The addresses that a mask-table header names (R512); their alignment is R243's. -/
def maskNames (s : State) (vocab a : Nat) : Checks :=
  let h := maskHead s a
  allChecks
    [tableChecks s h.stateAddr (16 * h.states) 1, tableChecks s h.edgeAddr (8 * h.edgeCnt) 1,
     tableChecks s h.bmpAddr (1024 * h.bitmaps * pieces vocab) 1]

/-- Edges in strictly ascending TOKEN. -/
def edgesAscend (s : State) (h : MaskHead) : List Nat → Bool
  | [] => true
  | [_] => true
  | a :: b :: r => (maskEdge s h a).1 < (maskEdge s h b).1 && edgesAscend s h (b :: r)

/-- The header, the state records and the edges of a mask table (R243). STATES and BITMAPS of 0 lie outside their stated ranges. -/
def maskChecks (s : State) (vocab a : Nat) : Checks :=
  let h := maskHead s a
  let ns := List.range h.states
  let es := List.range h.edgeCnt
  { badField := h.rsv || h.vocab ≠ vocab || h.bitmaps % 64 ≠ 0 || h.stateAddr % 16 ≠ 0 || h.edgeAddr % 8 ≠ 0 || h.bmpAddr % 65536 ≠ 0
      || ns.any (fun n =>
        let m := maskState s h n
        m.rsv || m.rowCnt = 0 || m.presMode = 3 || (n + 1 < h.states && (maskState s h (n + 1)).edgeIdx < m.edgeIdx)
          || !edgesAscend s h (stateEdges s h n))
      || es.any fun i => (maskEdge s h i).2.2
    limit := 65536 < h.states || 32768 < h.bitmaps || 16777216 < h.edgeCnt || h.states = 0 || h.bitmaps = 0
      || ns.any (fun n => 4 < (maskState s h n).rowCnt) || es.any fun i => 262144 ≤ (maskEdge s h i).1
    extent := h.states ≤ h.terminal || ns.any (fun n =>
        let m := maskState s h n
        (m.bmp.take m.rowCnt).any (fun b => h.bitmaps ≤ b) || h.states ≤ m.next || h.edgeCnt < m.edgeIdx)
      || es.any fun i => h.states ≤ (maskEdge s h i).2.1 || vocab ≤ (maskEdge s h i).1 }

/-- A mask area fits in every stack that holds a piece (R243, R244). -/
def areaFits (s : State) (vocab slot tbl bitmaps : Nat) : Bool :=
  (List.range (pieces vocab)).all fun k => (takeArea s (maskBank (maskIndex slot tbl) k) bitmaps).isSome

/-- The stream buffer serves the reel (R302). -/
def streamChecks (s : State) (slot : Nat) (gs : List Stage) : Checks :=
  let st := gs.filter (·.streamed)
  if st = [] then {}
  else
    let b := objOf s (rd0 s (fldAt UMR_STREAM_OBJ slot 8))
    let wmax := st.foldl (fun m g => max m g.wBytes) 0
    { badField := st.any (fun g => g.bankOk || (objOf s g.obj).layout ≠ 0 || !(objOf s g.obj).home)
        || (rd0 s (fldAt UMR_STREAM_EN slot 8) = 1 && (b.st = .free || b.layout ≠ 0 || b.cls ≠ 0 || b.home || !b.byPhys))
      extent := rd0 s (fldAt UMR_STREAM_EN slot 8) = 1
        && b.size < rd0 s (fldAt UMR_STREAM_SLOTS slot 8) * ceilDiv wmax (2 ^ 21)
      noRoom := rd0 s (fldAt UMR_STREAM_EN slot 8) = 0 }

/-- M, H and reserved bits of an expert-bound record. -/
def expbRecord (s : State) (a : Nat) : Nat × Nat × Bool :=
  let w := uNat s a 8
  (bits w 0 8, bits w 8 8, bits w 16 16 ≠ 0)

/-- Expert-bound records of a BANK_OK EXPERT stage (R452). -/
def expbChecks (s : State) (h : ReelHead) (g : Stage) : Checks :=
  let (i0, n) := boundSpan s h g
  if !(g.bankOk && g.kind = kExpert) then {}
  else
    let cap := expertCap s { reelZero with inner := [(0, innerOf s g)] } 0
    let rs := (List.range n).map fun i => expbRecord s (h.expb + 8 * (i0 + i))
    { badField := rs.any (·.2.2)
      extent := (upto 1 128).any fun m => (List.range (min m cap + 1)).any fun t => !rs.any fun r => r.1 = m && r.2.1 = t }

/-! ### Arrays (R126) -/

def arraysHeld (s : State) : List Nat := s.reels.flatMap fun r => r.2.arrays.map (·.1)

/-- The lowest free array on the lowest die of the mask that has one. -/
def freeArray (held : List Nat) (dieMask : Nat) : Option Nat :=
  (List.range 64).find? fun a => bit dieMask (a / 16) && !held.contains a

/-- Replicas `r` to `r + n - 1` of a position. -/
def takeReplicas (p dieMask : Nat) : Nat → Nat → List Nat → Option (List (Nat × Nat × Nat) × List Nat)
  | 0, _, held => some ([], held)
  | n + 1, r, held =>
    match freeArray held dieMask with
    | none => none
    | some a => (takeReplicas p dieMask n (r + 1) (a :: held)).map fun x => ((a, p, r) :: x.1, x.2)

/-- Arrays for every position in ascending order. -/
def assignArrays : Nat → List Binding → List Nat → Option (List (Nat × Nat × Nat))
  | _, [], _ => some []
  | p, b :: bs, held =>
    match takeReplicas p b.dieMask b.replicas 0 held with
    | none => none
    | some (xs, held) => (assignArrays (p + 1) bs held).map (xs ++ ·)

/-! ### REEL_LOAD -/

/-- The operands of REEL_LOAD (R512). -/
def loadChecks (s : State) (h : CmdHdr) (slot : Nat) (addr : Nat) : Checks :=
  { denied := h.fn ≠ 0
    badState := (reelOf s slot).st ≠ .empty || unmapping s addr
    badField := h.rsv || wideBits addr || addr % 64 ≠ 0
    extent := !insideObj s addr 64 }

/-- An accepted REEL_LOAD stays open while the device reads and checks the image. -/
def applyReelLoad (h : CmdHdr) (slot : BitVec 2) (addr : W64) (s : State) (c : CmdId) : State :=
  guarded s c (loadChecks s h slot.toNat addr.toNat) fun s =>
    setReel s slot.toNat { reelZero with st := .loading, addr := addr.toNat, cmd := some c }

/-- The image as it is read: header, plan header, stages with their reserved bits, bindings. -/
structure ReelImage where
  head : ReelHead
  plan : PlanHead
  stages : List (Stage × Bool)
  binds : List (Binding × Bool)
  masks : List Nat

def readReel (s : State) (a : Nat) : ReelImage :=
  let h := reelHead s a
  let p := planHead s h.plan
  { head := h, plan := p
    stages := (List.range p.stageCnt).map fun i => stageRecord s (p.stages + 64 * i)
    binds := (List.range p.posCnt).map fun i => bindRecord s (p.binds + 8 * i)
    masks := (List.range h.maskCnt).map fun k => uNat s (h.mask + 8 * k) 8 }

/-- R512: the header, and every table and address that the image names. What a table holds is judged where the table itself can be
read. -/
def nameChecks (s : State) (a : Nat) : Checks :=
  let i := readReel s a
  let h := i.head
  let p := i.plan
  let planOk := insideObj s h.plan 32
  allChecks
    ([{ badField := h.magic ≠ 0x4C454552 || h.version ≠ 1 || h.rsv, limit := 16 < h.maskCnt || 16384 < h.costCnt },
      tableChecks s h.plan 32 32, tableChecks s h.cost (32 * h.costCnt) 32, tableChecks s h.expb (8 * h.expbCnt) 8,
      tableChecks s h.mask (8 * h.maskCnt) 8]
     ++ checksIf planOk
          [{ badField := p.rsv }, tableChecks s p.stages (64 * p.stageCnt) 64, tableChecks s p.binds (8 * p.posCnt) 8]
     ++ checksIf (planOk && insideObj s p.binds (8 * p.posCnt)) [{ badField := i.binds.any (·.2) }]
     ++ checksIf (planOk && insideObj s p.stages (64 * p.stageCnt)) (i.stages.map fun g => stageNames s h g.1 g.2)
     ++ checksIf (insideObj s h.mask (8 * h.maskCnt))
          (i.masks.flatMap fun m =>
            bothChecks { badField := 2 ^ 43 ≤ m } (tableChecks s (m % 2 ^ 43) 40 8)
              :: checksIf (insideObj s (m % 2 ^ 43) 40) [maskNames s h.vocab (m % 2 ^ 43)]))

/-- R125 and R206, and with them the reel's other tables (R146, R150, R172, R243, R302, R452), and the room that the load needs
(R126, R243). A plan of no stages needs no room, and what counts or inspects stages does not apply to it (R125). -/
def tablesChecks (s : State) (slot : Nat) (i : ReelImage) (copiesOk : Bool) : Checks :=
  let gs := i.stages.map (·.1)
  let vocab := i.head.vocab
  let bs := i.binds.map (·.1)
  allChecks
    (bindChecks i.plan bs
     :: checksIf (gs ≠ [])
          [wholePlan i.plan gs,
           { noRoom := (assignArrays 0 bs (arraysHeld s)).isNone
               || i.masks.zipIdx.any fun m => !areaFits s vocab slot (m.2 + 1) (maskHead s m.1).bitmaps }]
     ++ gs.map (stageChecks s vocab i.plan.posCnt)
     ++ (gs.filter (·.bankOk)).map (fun g => progChecks s g copiesOk)
     ++ [{ badField := gs.any (scalesBad s vocab) }, attnChecks s gs, streamChecks s slot gs]
     ++ i.masks.map (maskChecks s vocab) ++ gs.map (expbChecks s i.head))

/-- R286, which follows R206. -/
def stripesChecks (s : State) (i : ReelImage) : Checks :=
  allChecks (((i.stages.map (·.1)).filter (·.bankOk)).map (stripeStage s))

/-- The first failure of the image: R512's checks come before those of R125 and of the reel's other tables. -/
def imageFailure (s : State) (slot a : Nat) (copiesOk : Bool) : Option Nat :=
  let i := readReel s a
  (refusal (nameChecks s a)).orElse fun _ => (refusal (tablesChecks s slot i copiesOk)).orElse fun _ => refusal (stripesChecks s i)

/-- Forms one table's mask area in every stack: its granules are taken, and its bitmaps are copied to their rows (R244). -/
def formArea (s : State) (vocab slot tbl addr : Nat) : State :=
  let h := maskHead s addr
  let n := maskIndex slot tbl
  forEach (List.range (pieces vocab)) s fun s k =>
    let key := maskBank n k
    let gs := (takeArea s key h.bitmaps).getD []
    let s := forEach gs s fun s g => setGran s key g .mask
    let s := { s with maskAreas := mapSet [] s.maskAreas key gs }
    let f := inst RGN_MASK_USE k
    let s := wr0 s f (setBit (rd0 s f) n true)
    forEach (List.range h.bitmaps) s fun s b => rowWrite s key (areaRow s key (bmpRow b)) (uReadN s (bmpPiece h k b) 1024)

/-- Objects that a non-STREAMED stage names (R294). -/
def namedObjs (s : State) (gs : List Stage) : List Nat := ((gs.filter fun g => !g.streamed).flatMap (stageObjs s)).eraseDups

/-- Stage cost record of a stage with its expert bounds, as REEL_LOAD reads them (R452). -/
def readCost (s : State) (h : ReelHead) (g : Stage) : StageCost :=
  let a := h.cost + 32 * g.costIdx
  let w := fun o n => uNat s (a + o) n
  { tiles := w 0 4, streamClk := w 4 2, fixArray := w 6 2, post := w 8 4, bankFix := w 0xC 4, bankTok := w 0x10 4, bankWide := w 0x14 4
    bounds := (List.range (w 0x18 2)).map fun i =>
      let b := uNat s (h.expb + 8 * (w 0x1C 4 + i)) 8
      (bits b 0 8, bits b 8 8, bits b 32 32) }

/-- The reel as the image describes it. -/
def loadedReel (s : State) (r : Reel) (i : ReelImage) (digest : BitVec 384) : Reel :=
  let gs := i.stages.map (·.1)
  let idx := gs.zipIdx
  { r with
    vocab := i.head.vocab, waveM1 := i.plan.waveM1, flightM1 := i.plan.flightM1, home := i.plan.home, stages := gs
    binds := i.binds.map (·.1)
    masks := i.masks.zipIdx.map fun m => ⟨m.1, (maskHead s m.1).states, (maskHead s m.1).terminal,
      (List.range (maskHead s m.1).states).any (fun n => (maskState s (maskHead s m.1) n).presMode ≠ 0), m.2 + 1⟩
    attn := (idx.filter (fun g => g.1.kind = kAttn)).map fun g => (g.2, (attnRecord s g.1.kparam).1)
    inner := (idx.filter (fun g => g.1.kind = kExpert)).map fun g => (g.2, innerOf s g.1)
    costs := gs.map (readCost s i.head), costAddr := i.head.cost, expbAddr := i.head.expb, expbCnt := i.head.expbCnt, claimed := namedObjs s gs
    arrays := (assignArrays 0 (i.binds.map (·.1)) (arraysHeld s)).getD []
    digest := digest, intervalFirst := rd0 s FRM_FRAME + 1 }

/-- The work of an accepted load is done: its outcome stands until the Wrap that concludes it (R512). `ue`: unified addresses of the image
whose read is uncorrectable (R235, R339); compute rows and pages in zero-state report none.  -/
def finishLoad (s : State) (slot : Nat) (digest : BitVec 384) (ue : List Nat) (copiesOk : Bool) : State :=
  let r := reelOf s slot
  let bad := ue.filter (canFail s)
  let fail := if bad ≠ [] then some stUncorrected else imageFailure s slot r.addr copiesOk
  let s := forEach bad s readError
  match fail with
  | some st => setReel s slot { r with ready := some st }
  | none =>
    let i := readReel s r.addr
    if i.plan.stageCnt = 0 then setReel s slot { r with ready := some stOk }
    else
      let x := { loadedReel s r i digest with ready := some stOk }
      let s := forEach i.masks.zipIdx s fun s m => formArea s i.head.vocab slot (m.2 + 1) m.1
      let s := forEach x.claimed s fun s o => claimBit s o (33 + slot) true
      setReel s slot x

/-! ### REEL_UNLOAD -/

def unloadChecks (s : State) (h : CmdHdr) (slot : Nat) : Checks :=
  { denied := h.fn ≠ 0
    badState := (reelOf s slot).st ≠ .resident || s.entries.any (fun e => e.2.st ≠ .free && e.2.reel = slot)
    badField := h.rsv }

/-- An accepted REEL_UNLOAD clears the claim bits; zeroing follows (R294, R512). -/
def applyReelUnload (h : CmdHdr) (slot : BitVec 2) (s : State) (c : CmdId) : State :=
  guarded s c (unloadChecks s h slot.toNat) fun s =>
    let r := reelOf s slot.toNat
    let s := setReel s slot.toNat { r with st := .unloading, cmd := some c, claimed := [] }
    forEach r.claimed s fun s o => claimBit s o (33 + slot.toNat) false

/-- Zeroes and untags every slot of an array (R138). -/
def clearArray (s : State) (a : Nat) : State :=
  let s := bump0 s (inst ARY_CLEAR_CNT a) (rd0 s (inst ARY_BIND_SLOTS a))
  forEach (List.range 32) s fun s n =>
    wr0 (wr0 s (fldAt (inst ARY_SLOT_TENANT a) n 8) 0) (fldAt (inst ARY_SLOT_VALID a) n 8) 0

/-- Zeroes one mask area and returns its granules (R244). -/
def clearArea (s : State) (n k : Nat) : State :=
  let key := maskBank n k
  let gs := mapGetD s.maskAreas key []
  let s := zeroRuns s (gs.map fun g => (key, 2048 * g, 2048))
  let s := forEach gs s fun s g =>
    if granOf s key g = .mask then setGran s key g .free
    else if granOf s key g = .maskRetiring then setGran s key g .retired else s
  let f := inst RGN_MASK_USE k
  wr0 { s with maskAreas := mapSet [] s.maskAreas key [] } f (setBit (rd0 s f) n false)

/-- Activations that belong to a reel slot. -/
def actSlot (key : Nat) : Nat := key / 2 ^ 49

/-- The zeroing of an unloaded reel is done (R138, R244). -/
def finishUnload (s : State) (slot : Nat) (digest : BitVec 384) : State :=
  let r := reelOf s slot
  let s := forEach r.arrays s fun s a => clearArray s a.1
  let s := forEach r.masks s fun s m => forEach (List.range (pieces r.vocab)) s fun s k => clearArea s (maskIndex slot m.index) k
  let s := { s with acts := s.acts.filter (fun p => actSlot p.1 ≠ slot), resid := s.resid.filter (fun p => actSlot p.1 ≠ slot)
                    logits := s.logits.filter (fun p => actSlot p.1 ≠ slot), routes := s.routes.filter (fun p => actSlot p.1 ≠ slot) }
  setReel s slot { r with ready := some stOk, digest := digest }

/-! ### The Wrap that concludes them (R126, R410, R512) -/

/-- Clears the binding registers of an array. -/
def unbindArray (s : State) (a : Nat) : State :=
  forEach [ARY_BIND_BOUND, ARY_BIND_REEL, ARY_BIND_POS, ARY_BIND_REPLICA, ARY_BIND_REPLICAS, ARY_BIND_SLOT_M1, ARY_BIND_SLOTS,
    ARY_BIND_HOME] s fun s f => wr0 s (inst f a) 0

def concludeReel (s : State) (slot : Nat) : State :=
  let r := reelOf s slot
  match r.ready, r.cmd with
  | some st, some c =>
    let s := conclude s c st
    if r.st = .unloading then
      let s := forEach r.arrays s fun s a => unbindArray s a.1
      extend (setReel s slot reelZero) 7 6 r.digest
    else if st = stOk && r.stages ≠ [] then
      extend (setReel s slot { r with st := .resident, cmd := none, ready := none, bindDue := true }) 7 5 r.digest
    else setReel s slot reelZero
  | _, _ => s

def concludeReels (s : State) : State := forEach (List.range 4) s concludeReel

/-- A binding takes effect at an opening tick (R126). -/
def bindReel (s : State) (slot : Nat) : State :=
  let r := reelOf s slot
  if !r.bindDue then s
  else
    let s := forEach r.arrays s fun s x =>
      let (a, p, rep) := x
      let b := r.binds.getD p ⟨0, 0, 0⟩
      let put := fun s f v => wr0 s (inst f a) v
      let s := put (put (put s ARY_BIND_BOUND 1) ARY_BIND_REEL slot) ARY_BIND_POS p
      let s := put (put (put s ARY_BIND_REPLICA rep) ARY_BIND_REPLICAS b.replicas) ARY_BIND_SLOT_M1 b.slotM1
      put (put s ARY_BIND_SLOTS (slotCount r.waveM1 r.flightM1 (p = r.home))) ARY_BIND_HOME (decide (p = r.home)).toNat
    setReel s slot { r with bindDue := false }

def bindReels (s : State) : State := forEach (List.range 4) s bindReel

/-! ### The commands -/

def execReelLoad (h : CmdHdr) (slot : BitVec 2) (addr : W64) (s : State) : Out :=
  act s fun s => submit s h (.reelLoad h slot addr) 0x10 none (applyReelLoad h slot addr)

def execReelLoadComplete (slot : BitVec 2) (digest : BitVec 384) (ue : List Nat) (copiesOk : Bool) (s : State) : Out :=
  act s fun s =>
    let r := reelOf s slot.toNat
    if r.st = .loading && r.ready.isNone then finishLoad s slot.toNat digest ue copiesOk else s

def execReelUnload (h : CmdHdr) (slot : BitVec 2) (s : State) : Out :=
  act s fun s => submit s h (.reelUnload h slot) 0x11 none (applyReelUnload h slot)

def execReelUnloadComplete (slot : BitVec 2) (digest : BitVec 384) (s : State) : Out :=
  act s fun s =>
    let r := reelOf s slot.toNat
    if r.st = .unloading && r.ready.isNone then finishUnload s slot.toNat digest else s

end Sys2Proof.Machine
end

