-- ==== Sys2Proof/Machine/Wrap.lean ====
section
/-! DEFINITION. Wrap (02, 03, 04, 10): what a frame commits, slips and failed frames, token records, the frame report, completions and
events, and the frame interrupt. -/
namespace Sys2Proof.Machine

/-! ### Commands that are open -/

/-- Commands that Slate has applied and that have not concluded. -/
def openCmds (s : State) : List CmdId :=
  s.entries.flatMap (fun e => e.2.feed.toList ++ e.2.rel.toList) ++ s.objs.flatMap (fun o => o.2.unmap.toList)
    ++ s.reels.flatMap (fun r => r.2.cmd.toList) ++ s.tblLoads.map (·.cmd) ++ s.cfg.waiting.map (·.cmd)

/-- Place of a command's counter behind HEAD, as a number that rises with ring order. -/
def ringAge (s : State) (c : CmdId) : Nat := (c.seq + 2 ^ 31 + 2 ^ 32 - rd s c.fn (sqFld PCI_SQ_HEAD c.ring)) % 2 ^ 32

def earlierOpen (s : State) (c : CmdId) : Bool :=
  (openCmds s).any fun d => d.fn = c.fn && d.ring = c.ring && decide (ringAge s d < ringAge s c)

/-- A FENCE completes at the first Wrap at which every earlier command of its ring has completed. -/
def concludeFences (s : State) : State :=
  let (now, later) := s.fences.partition fun c => !earlierOpen s c
  forEach now { s with fences := later } fun s c => conclude s c stOk

/-! ### What an entry commits (R72 to R81, R84, R85) -/

/-- The 16 bytes of a token record as two words, PHASE 0 (R272). -/
def tokenWords (s : State) (e tok pos : Nat) (acc last late emptyAttn maskEmpty : Bool) (reason : Nat) : Nat × Nat :=
  let fin := last && decide (reason ≠ 0)
  (tok + acc.toNat * 2 ^ 19 + last.toNat * 2 ^ 20 + late.toNat * 2 ^ 21 + s.frame.slipped.toNat * 2 ^ 22
      + emptyAttn.toNat * 2 ^ 23 + maskEmpty.toNat * 2 ^ 24 + fin.toNat * 2 ^ 25 + (if fin then reason else 0) * 2 ^ 26
      + e * 2 ^ 32 + (entryOf s e).userTag % 2 ^ 16 * 2 ^ 48,
    pos + rd0 s FRM_FRAME % 2 ^ 32 * 2 ^ 32)

/-- Token records of an entry, from position `pos` on. -/
def tokenItems (s : State) (e pos : Nat) (toks : List (Nat × Bool)) (maskEmpty late : Bool) (reason : Nat) : List WrapItem :=
  let x := entryOf s e
  let all := toks.map (fun t => (t.1, t.2, false)) ++ (if maskEmpty then [(0x3FFFF, false, true)] else [])
  all.zipIdx.map fun t =>
    let p := pos + t.2
    let w := tokenWords s e t.1.1 p t.1.2.1 (t.2 + 1 = all.length) late (s.plan.empties.contains (e, p - 1)) t.1.2.2 reason
    .token x.fn x.outRing w.1 w.2

/-- The step is late: FRM_TICK has reached a nonzero NEXT_DUE (R85). -/
def isLate (s : State) (x : Entry) : Bool := x.nextDue ≠ 0 && decide (x.nextDue ≤ rd0 s FRM_TICK)

/-- Positions that a sampled step or chunk commits: every position of a chunk; of a step the pending token's and the accepted
drafts', the last emitted token's aside (R73, R79, R80, R267). -/
def commitCount (p : Planned) (sm : Sampled) : Nat :=
  if p.chunk then p.toks else if sm.maskEmpty then sm.toks.length + 1 else sm.toks.length

/-- Finish reason: the sampler's, else CONTEXT when the last position is committed (R81). -/
def finishOf (len : Nat) (sm : Sampled) : Nat := if sm.reason ≠ 0 then sm.reason else if ctxMax ≤ len then 3 else 0

/-- The entry after a step or an emitting chunk commits. -/
def committed (s : State) (p : Planned) (sm : Sampled) : Entry :=
  let x := entryOf s p.entry
  let len := x.lenCommit + commitCount p sm
  let ids := sm.toks.map (·.1)
  let late := isLate s x
  let x := { x with
    lenCommit := len, lenTent := len, emitted := x.emitted + ids.length, maskState := sm.maskState
    feedCur := if p.chunk then x.feedCur + promptOf x p.toks else x.feedCur
    pendValid := !sm.maskEmpty && decide (ids ≠ []), pendTok := if sm.maskEmpty then 0 else ids.getLastD 0
    fresh := x.fresh ++ ids, lateSeen := x.lateSeen || late, lateDue := finishOf len sm = 0 && (x.lateDue || late)
    lastTick := if ids = [] then x.lastTick else rd0 s FRM_TICK
    st := if finishOf len sm = 0 then .decoding else .finished, finReason := finishOf len sm }
  if ids = [] then x else { x with nextDue := nextDue x }

def commitSampled (s : State) (p : Planned) (sm : Sampled) : State :=
  let x := entryOf s p.entry
  let late := isLate s x
  let len := x.lenCommit + commitCount p sm
  let pos := if p.chunk then x.lenCommit + p.toks else x.lenCommit + 1
  let items := tokenItems s p.entry pos sm.toks sm.maskEmpty late (finishOf len sm)
  let s := setEntry s p.entry (committed s p sm)
  let s := bump0 (bump0 s CSH_DRAFT_ACC sm.accepted) CSH_DRAFT_REJ (p.drafts.length - sm.accepted)
  let s := if late then bump0 s CSH_LATE_CNT 1 else s
  let s := if p.chunk then endFeed s p.entry (if late then stDoneLate else stOk) else s
  { s with wrapQ := s.wrapQ ++ items }

/-- A chunk that emits nothing commits (R73, R74). -/
def commitChunk (s : State) (p : Planned) : State :=
  let x := entryOf s p.entry
  let len := x.lenCommit + p.toks
  let cur := x.feedCur + promptOf x p.toks
  let x := { x with lenCommit := len, lenTent := len, feedCur := cur, pendValid := false, pendTok := 0 }
  let s := setEntry s p.entry x
  if cur ≠ x.feedLen then s
  else
    let s := endFeed s p.entry stOk
    if x.go then noteEnd (finishEntry s p.entry 2) p.entry
    else setEntry s p.entry { entryOf s p.entry with st := .staged }

/-- One planned entry at Wrap: its fault, its sampled tokens, or its chunk. -/
def commitOne (s : State) (p : Planned) : State :=
  match s.plan.faults.find? (·.1 = p.entry) with
  | some f => faultEntry (bump0 s CSH_DRAFT_REJ p.drafts.length) p.entry f.2
  | none =>
    match s.plan.sampled.find? (·.entry = p.entry) with
    | some sm => commitSampled s p sm
    | none => if p.chunk then commitChunk s p else s

/-- Entries of the plan in ascending index (R273). -/
def plannedByEntry (s : State) : List Planned := sortBy (fun a b => decide (a.entry < b.entry)) s.plan.planned

/-- A failed frame takes back what Slate had set: LEN_TENT, and the planned drafts count as rejected (R53). -/
def rollBack (s : State) : State :=
  forEach (plannedByEntry s) s fun s p =>
    let x := entryOf s p.entry
    setEntry (bump0 s CSH_DRAFT_REJ p.drafts.length) p.entry { x with lenTent := x.lenCommit }

/-- CSH_OCC at a Wrap. -/
def settleOcc (s : State) : State :=
  let n := fun st => (s.entries.filter (fun e => e.2.st = st)).length
  let s := wr0 (wr0 (wr0 s CSH_OCC0_STAGED (n .staged)) CSH_OCC0_FEEDING (n .feeding)) CSH_OCC0_DECODING (n .decoding)
  let s := wr0 (wr0 (wr0 s CSH_OCC1_FINISHED (n .finished)) CSH_OCC1_FAULTED (n .faulted)) CSH_OCC1_STRIKING (n .striking)
  let used := n .staged + n .feeding + n .decoding + n .finished + n .faulted + n .striking
  wr0 s CSH_OCC0_FREE (8192 - used)

/-! ### Slips (R47 to R52, R101) -/

def chargeList (c : Charges) : List Nat := [c.weightLate, c.retakeOver, c.refreshOver, c.throttled, c.linkWait, c.hostWait]

/-- Bit n for every cause n charged with delay. -/
def causeMask (c : Charges) : Nat := ((chargeList c).zipIdx.map fun p => (decide (p.1 ≠ 0)).toNat * 2 ^ (p.2 + 1)).foldl (· + ·) 0

/-- The cause charged with the most delay, the lower value at a tie; LINK_WAIT where none is charged (R51). -/
def primaryCause (c : Charges) : Nat :=
  let m := (chargeList c).foldl max 0
  if m = 0 then 5 else ((chargeList c).findIdx? (· = m)).getD 0 + 1

/-- The retake reserve in nanoseconds (R54). -/
def reserveNs (s : State) : Nat := (rd0 s FRM_PERIOD - 75) * 2000 * rd0 s FRM_RESERVE / 1000 / 2

/-- The report of a Roll with what the device has seen of it: weight wait is charged when a stage waited, the first stage that did is named
(R111, R113), retake time beyond the reserve is RETAKE_OVER (R49, R166), and Roll waits on no host ring (R52). -/
def measured (s : State) (r : RollReport) : RollReport :=
  let wait := if s.work.waited.isSome then max 1 r.charges.weightLate else 0
  { r with
    charges := { r.charges with weightLate := wait, retakeOver := r.retakeNs - reserveNs s, hostWait := 0 }
    waitNs := wait
    waitStage := BitVec.ofNat 16 ((s.work.waited.map (·.1)).getD 0xFFFF)
    waitReel := BitVec.ofNat 2 ((s.work.waited.map (·.2)).getD 0) }

/-- SLIP record of the physical function (R390). -/
def slipEvent (s : State) (causes : Nat) : Event := ⟨4, stSlipped, 0, min s.frame.skipped 255 + causes / 2 * 2 ^ 8, 0⟩

/-- The registers of a slipped frame (R51). -/
def recordSlip (s : State) (cause causes overrun : Nat) : State :=
  let s := wr0 (wr0 s FRM_LAST_SLIP_FRAME (rd0 s FRM_FRAME)) FRM_LAST_SLIP_SKIPPED (min s.frame.skipped 255)
  let s := wr0 (wr0 (wr0 s FRM_LAST_SLIP_CAUSE cause) FRM_LAST_CAUSES (causes / 2)) FRM_LAST_OVERRUN (min overrun (2 ^ 32 - 1))
  bump0 { s with ops := { s.ops with slips := s.ops.slips + 1 } } (fldAt FRM_SLIP_CNT (cause - 1) 8) 1

/-- The admission level at a Wrap (R101). -/
def moveLevel (s : State) : State :=
  let s := { s with frame := { s.frame with oldLevel := rd0 s SHL_ADM_LEVEL, oldCalm := s.frame.calm } }
  if s.frame.slipped && s.frame.report.charges.weightLate ≠ 0 then
    { wr0 s SHL_ADM_LEVEL (min 15 (rd0 s SHL_ADM_LEVEL + 1)) with frame := { s.frame with calm := 0 } }
  else if rd0 s SHL_ADM_RECOVER ≤ s.frame.calm + 1 then
    { wr0 s SHL_ADM_LEVEL (rd0 s SHL_ADM_LEVEL - 1) with frame := { s.frame with calm := 0 } }
  else { s with frame := { s.frame with calm := s.frame.calm + 1 } }

/-! ### The frame report (R113, R114) -/

def sumToks (ps : List Planned) : Nat := ps.foldl (fun n p => n + p.toks) 0

def tenantPlanned (s : State) (t : Nat) (chunk : Bool) : List Planned :=
  s.plan.planned.filter fun p => (entryOf s p.entry).tenant = t && p.chunk = chunk

def isDeferred (d : Deferral) : Bool := d.reason ≠ 4

def mapSum (m : Map Nat) : Nat := m.foldl (fun n p => n + p.2) 0

/-- Header of a report; `virt`: a virtual function's in CONFIDENTIAL mode reads sums over tenants as 0. -/
def reportHeader (s : State) (defers paths : Nat) (hide : Bool) : Bytes :=
  let r := s.frame.report
  let p := s.plan
  let v := fun n => if hide then 0 else n
  let steps := p.planned.filter (!·.chunk)
  let chunks := p.planned.filter (·.chunk)
  let cause := if s.frame.slipped then rd0 s FRM_LAST_SLIP_CAUSE else 0
  let causes := if s.frame.slipped then rd0 s FRM_LAST_CAUSES * 2 else causeMask r.charges
  let w := fun a b => leBytes 4 (min a (2 ^ 32 - 1)) ++ leBytes 4 (min b (2 ^ 32 - 1))
  leBytes 8 (rd0 s FRM_FRAME) ++ leBytes 8 (rd0 s OPEN_TICK + min s.frame.skipped 255 * 2 ^ 48) ++ w p.planNs p.admNs
    ++ w p.predNs r.rollNs ++ w r.retakeNs r.waitNs
    ++ leBytes 8 (p.level + cause * 2 ^ 4 + causes * 2 ^ 8 + r.waitStage.toNat * 2 ^ 16 + r.waitReel.toNat * 2 ^ 32)
    ++ leBytes 8 (v steps.length + v chunks.length * 2 ^ 16 + defers * 2 ^ 32 + paths * 2 ^ 48)
    ++ w (v (sumToks steps)) (v (sumToks chunks))
    ++ leBytes 8 (v p.micros.length % 2 ^ 16 + min p.switches 65535 * 2 ^ 16 + min (v (mapSum p.retakes)) (2 ^ 32 - 1) * 2 ^ 32)
    ++ w p.refreshBudget r.refreshUsed ++ w (v (mapSum p.zeroed)) p.dailyBlocks ++ List.replicate 0xA8 0

def tenantRecord (s : State) (t : Nat) : Bytes :=
  let steps := tenantPlanned s t false
  let chunks := tenantPlanned s t true
  let d := s.plan.deferred.filter fun d => isDeferred d && (entryOf s d.entry).tenant = t
  let mb := s.plan.micros.filter (·.tenant = t)
  leBytes 4 (sumToks steps) ++ leBytes 4 (sumToks chunks)
    ++ leBytes 8 (steps.length + chunks.length * 2 ^ 16 + d.length * 2 ^ 32 + mb.length * 2 ^ 48)
    ++ leBytes 4 (mapGetD s.plan.retakes t 0) ++ leBytes 4 (mapGetD s.plan.added t 0)
    ++ leBytes 8 (min (mapGetD s.plan.zeroed t 0) (2 ^ 32 - 1))

def pathBytes (p : PathRec) : Bytes :=
  leBytes 8 (p.layer + p.reel * 2 ^ 8 + p.projPath * 2 ^ 10 + p.projCount * 2 ^ 18 + p.thresh % 2 ^ 8 * 2 ^ 22
      + p.retakes % 2 ^ 24 * 2 ^ 32)
    ++ leBytes 8 (p.expArray % 2 ^ 24 + p.expBank % 2 ^ 24 * 2 ^ 24)

def deferBytes (d : Deferral) : Bytes :=
  leBytes 8 (d.entry + d.reason * 2 ^ 13 + d.eprio * 2 ^ 16 + d.atRisk.toNat * 2 ^ 19 + d.age * 2 ^ 24 + d.draftsUsed * 2 ^ 40
    + d.draftsDropped * 2 ^ 44 + d.chunk * 2 ^ 48)

/-- One function's report. -/
def writeReport (s : State) (fn : Nat) : State :=
  let slots := rd s fn SHL_REPORT_CTL_SLOTS
  if slots = 0 then s
  else if !canWrite s fn then bump s fn PCI_DROP 1
  else
    let head := rd s fn SHL_REPORT_CTL_HEAD
    let at_ := rd s fn SHL_REPORT_BASE + head % slots * 131072
    let own := fun t => fn = 0 || tenantOf s fn = some t
    let ds := s.plan.deferred.filter fun d => own (entryOf s d.entry).tenant
    let ps := if fn = 0 then s.plan.paths else []
    let recs := (List.range 32).flatMap fun t => if own t then tenantRecord s t else List.replicate 32 0
    let s := hostWrite s fn at_ (reportHeader s ds.length ps.length (fn ≠ 0 && confidential s) ++ recs)
    let s := if ps = [] then s else hostWrite s fn (at_ + 0x500) (ps.flatMap pathBytes)
    let s := if ds = [] then s else hostWrite s fn (at_ + 0x4500) (ds.flatMap deferBytes)
    wr s fn SHL_REPORT_CTL_HEAD ((head + 1) % slots)

def writeReports (s : State) : State :=
  let s := wr0 (wr0 s SHL_LAST_PRED_PRED_NS s.plan.predNs) SHL_LAST_PRED_ROLL_NS s.frame.report.rollNs
  let s := wr0 (wr0 s SHL_LAST_BUDGET_PLAN_NS s.plan.planNs) SHL_LAST_BUDGET_ADM_NS s.plan.admNs
  forEach (List.range 32) s writeReport

/-! ### Writing what is due at Wrap (R273, R275, R391, R516) -/

def orFld (f : Fld) (r : Nat) : Fld := fldAt f r 32

def dropRecord (s : State) (fn : Nat) : State := bump s fn PCI_DROP 1

/-- Writes a token record with its PHASE and advances TAIL. -/
def writeToken (s : State) (fn ring lo hi : Nat) : State :=
  let n := rd s fn (orFld SMP_OR_TAIL ring)
  let k := rd s fn (orFld SMP_OR_SIZE ring)
  let s := hostWrite s fn (rd s fn (orFld SMP_OR_BASE ring) + 16 * (n % 2 ^ k))
    (leBytes 8 (lo + ringPhase n k * 2 ^ 18) ++ leBytes 8 hi)
  let s := if bit lo 24 then bump s fn SMP_EMPTY_CNT 1 else bump s fn SMP_TOK_CNT 1
  serve (wr s fn (orFld SMP_OR_TAIL ring) (ringNext n)) fn

/-- One item: none when Wrap has to wait for its ring. -/
def writeItem (s : State) : WrapItem → Option State
  | .token fn ring lo hi =>
    if rd s fn (orFld SMP_OR_EN ring) = 0 || !canWrite s fn then some (dropRecord s fn)
    else if ringFull (rd s fn (orFld SMP_OR_HEAD ring)) (rd s fn (orFld SMP_OR_TAIL ring)) (rd s fn (orFld SMP_OR_SIZE ring)) then none
    else some (writeToken s fn ring lo hi)
  | .event fn e =>
    if !evrOpen s fn then some (dropRecord s fn)
    else if evrFull s fn then none
    else some (evrWrite s fn e)
  | .report => some (writeReports s)
  | .stats dest data => if canWrite s 0 then some (hostWrite s 0 dest data) else some (dropRecord s 0)

/-- Writes items in order until one has to wait (R52). -/
def drainWrap : List WrapItem → State → State
  | [], s => { s with wrapQ := [], frame := { s.frame with hostWaited := false } }
  | i :: is, s =>
    match writeItem s i with
    | some s => drainWrap is s
    | none => { s with wrapQ := i :: is, frame := { s.frame with hostWaited := true, waited := true } }

/-- Status of a command's completion (R49, R53). -/
def doneStatus (s : State) (d : Done) : Nat :=
  if d.drafts && s.frame.failed then stAborted
  else if d.status = stOk && s.frame.slipped then stSlipped
  else d.status

/-- CMD_DONE of a command (R390). -/
def doneEvent (s : State) (d : Done) : Event :=
  ⟨1, doneStatus s d, d.cmd.tag, d.cmd.op + d.cmd.ring * 2 ^ 8 + (d.cmd.entry.getD 0) % 2 ^ 13 * 2 ^ 16, d.userTag⟩

/-- Completions of a function in ring and command order, then its ENTRY_END records in ascending entry (R391). -/
def wrapEvents (s : State) (fn : Nat) : List WrapItem :=
  let ds := sortBy (fun a b => lexLt [a.cmd.ring, ringAge s a.cmd] [b.cmd.ring, ringAge s b.cmd]) (s.done.filter (·.cmd.fn = fn))
  let es := sortBy (fun a b => decide (a.1 < b.1)) (s.ended.filter (·.2.1 = fn))
  ds.map (fun d => .event fn (doneEvent s d)) ++ es.map (fun e => .event fn e.2.2)

/-- No stage runs on the arrays between Rolls. -/
def idleArrays (s : State) : State :=
  forEach ((List.range 4).flatMap fun r => (reelOf s r).arrays.map (·.1)) s fun s a =>
    forEach [ARY_STS_KIND, ARY_STS_LAYER, ARY_STS_MB, ARY_STS_WAITING, ARY_STS_RETAKE, ARY_STS_BANK] s fun s f => wr0 s (inst f a) 0

/-- An absmax interval of EVERY frames closes: what its records hold waits for their table (R169). A reel's first interval begins with the
frame after its load, whatever EVERY is then (DESIGN CHOICE, log entry 109); while a closed interval waits for its table no other closes. -/
def closeInterval (s : State) (slot : Nat) : State :=
  let r := reelOf s slot
  let every := rd0 s STA_AMAX_EVERY
  if r.st ≠ .resident || every = 0 || rd0 s (fldAt STA_AMAX_BASE slot 8) = 0 || confidential s
      || rd0 s FRM_FRAME + 1 < r.intervalFirst + every || r.closed.isSome then s
  else
    setReel s slot { r with intervalFirst := rd0 s FRM_FRAME + 1, closed := some (r.amax, r.intervalFirst, rd0 s FRM_FRAME) }

/-- STATS_SNAPSHOTs of this frame: their blocks as at W, and their completions (R482). -/
def statsItems (s : State) : List WrapItem := s.ops.stats.map fun q => .stats q.2.2 (snapshotBytes s q.2.1)

def concludeStats (s : State) : State :=
  forEach s.ops.stats { s with ops := { s.ops with stats := [] } } fun s q => conclude s q.1 stOk

/-- The commit step of Wrap (R39, R61). -/
def commitFrame (s : State) : State :=
  if s.frame.failed then rollBack s
  else concludeStrikes (if s.frame.kind = .frame then forEach (plannedByEntry s) s commitOne else s)

/-- Wrap begins (R39): commit, then records, report, completions and events as far as their rings have room. -/
def beginWrap (s : State) : State :=
  let frame := s.frame.kind = .frame
  let s := { wr0 s FRM_STS_SLIPPING 0 with wrapQ := [], frame := { s.frame with phase := .wrap, rollDone := true } }
  let s := strikeIdle (sortStrikes s) (fun x => !frame || idleStrike x) ⟨s.frame.report.idleRows, s.frame.report.idleBanks⟩
  let s := settleEntries (commitFrame s)
  let snaps := statsItems s
  let s := idleArrays (settleOcc (concludeFences (concludeReels (concludeStats s))))
  let s := if frame && !s.frame.failed then wr0 s ERL_FAIL_RUN 0 else s
  let s := if frame then moveLevel s else s
  let ch := s.frame.report.charges
  let s := if frame then forEach (List.range 4) (bump0 s PWR_THR_NS ch.throttled) closeInterval else s
  let s := if s.frame.slipped then recordSlip s (primaryCause ch) (causeMask ch) s.frame.report.overrunUs else s
  let reports := if frame && !s.frame.failed then [WrapItem.report] else []
  let events := (List.range 32).flatMap (wrapEvents s)
  let slip := if s.frame.slipped && flag s FRM_CTL_SLIP_INT_EN then [WrapItem.event 0 (slipEvent s (causeMask ch))] else []
  let items := s.wrapQ ++ reports ++ snaps ++ events ++ slip
  drainWrap items { s with wrapQ := [], done := [], ended := [] }

/-- Work of the committed plan whose tokens the sampler has not decided and that no fault ended. -/
def samplesLeft (s : State) : Bool :=
  s.plan.planned.any fun p =>
    (!p.chunk || emits (entryOf s p.entry) p.toks) && !(s.plan.sampled.any (·.entry = p.entry))
      && !(s.plan.faults.any (·.1 = p.entry))

/-- A micro-batch of the committed plan that has not passed every stage of its reel's stage plan (R19, R48). -/
def stagesLeft (s : State) : Bool :=
  s.plan.micros.zipIdx.any fun m => (List.range (reelOf s m.1.reel).stages.length).any fun n => !s.work.ran.contains (m.1.reel, n, m.2)

/-- Work that Slate planned and Roll has not completed: a token to decide, a stage to run, or a bank run that has not ended. -/
def workLeft (s : State) : Bool := samplesLeft s || stagesLeft s || s.runs ≠ []

/-- Roll stops: no bank run goes on, and the units of stage programs halt (R53, R197); none of them is offered to a collection. -/
def stopRoll (s : State) : State :=
  { s with
    runs := []
    units := s.units.map fun u => if bankChan u.1 < 30 && u.2.running then (u.1, clearUnit u.2) else u
    colls := s.colls.map fun c => (c.1, { c.2 with ready := c.2.ready.filter fun u => 30 ≤ bankChan u }) }

/-- A frame fails (R53): Roll stops, and Wrap runs from this instant. -/
def failFrame (s : State) : State :=
  if s.frame.kind = .frame && s.frame.phase = .roll && !s.frame.failed then
    beginWrap (stopRoll (bump0 { s with frame := { s.frame with failed := true } } ERL_FAIL_RUN 1))
  else s

end Sys2Proof.Machine
end

