-- ==== Sys2Proof/Machine/Stages.lean ====
section
/-! DEFINITION. The stages on the arrays and bank units (05, 06, 08): a stage's job, array registers and slots, weights and codes,
quantisation and retakes, and the stages of R159. -/
namespace Sys2Proof.Machine

/-! ### Activations -/

def actKey (slot stage e pos : Nat) : Nat := ((slot * 16384 + stage) * 8192 + e) * 2 ^ 22 + pos

def actGet (s : State) (slot stage : Nat) (t : Nat × Nat) : Option (List F32) := mapGet s.acts (actKey slot stage t.1 t.2)

def actPut (s : State) (slot stage : Nat) (t : Nat × Nat) (xs : List F32) : State :=
  { s with acts := mapPut s.acts (actKey slot stage t.1 t.2) xs }

/-- Residual stream of a token at the home position (R131). -/
def residGet (s : State) (slot : Nat) (t : Nat × Nat) : Option (List F32) := mapGet s.resid (actKey slot 0 t.1 t.2)

def residPut (s : State) (slot : Nat) (t : Nat × Nat) (xs : List F32) : State :=
  { s with resid := mapPut s.resid (actKey slot 0 t.1 t.2) xs }

/-! ### A stage's job -/

structure Job where
  inp : StageIn
  reel : Reel
  g : Stage
  mb : Micro

/-- Key of a STREAMED stage's slot: 1 + the slot that holds its weights. -/
def streamKey (slot stage : Nat) : Nat := slot * 16384 + stage

/-- A block that the dailies repair lies in the range (R259). -/
def repairingIn (s : State) (a n : Nat) : Bool :=
  n ≠ 0 && s.objs.any fun o => o.2.repairing.any fun i => a < o.2.base + 65536 * (i + 1) && o.2.base + 65536 * i < a + n

/-- Every granule of the range lies in the stacks and is not under copy, and no block of it is under repair (R259, R301). -/
def rangeReady (s : State) (a n : Nat) : Bool :=
  n = 0 || ((upto (a / 2 ^ 21) ((a + n - 1) / 2 ^ 21 + 1 - a / 2 ^ 21)).all (fun k => (xentOf s k).loc = .stack && !(xentOf s k).copying)
    && !repairingIn s a n)

/-- Ranges that a stage reads beside its weights: its parameter record, its bank program, and for SAMPLE the reel's mask tables. -/
def sideRanges (s : State) (r : Reel) (g : Stage) : List (Nat × Nat) :=
  let h := progHead s g.progAddr
  (if g.kind = kNorm || g.kind = kRope || g.kind = kAttn || g.kind = kExpert then [(g.kparam, 64)] else [])
    ++ (if g.bankOk then [(g.progAddr, 64), (g.progAddr + h.code, 4 * h.words), (h.place, 16 * h.placeCnt)] else [])
    ++ (if g.kind = kSample then r.masks.flatMap fun m =>
          let t := maskHead s m.addr
          [(m.addr, 64), (t.stateAddr, 16 * t.states), (t.edgeAddr, 8 * t.edgeCnt), (t.bmpAddr, 1024 * t.bitmaps * pieces r.vocab)]
        else [])

/-- The stage's weights are there, and no block that it reads is under repair (R111, R130, R259, R301, R302): a STREAMED stage's weights
in their slot, any other's in the stacks. -/
def weightsReady (s : State) (i : StageIn) (g : Stage) : Bool :=
  let r := reelOf s i.reel
  let inner := mapGetD r.inner i.stage 0
  let cb := sumNats ((stageMats r.vocab inner g).map matGroups) * groupRecBytes g.codeW
  let cal := 8 * calCount inner g
  !(sideRanges s r g).any (fun x => repairingIn s x.1 x.2)
    && (if !weightKind g.kind then true
      else if g.streamed then
        mapGetD s.streamBuf (streamKey i.reel i.stage) 0 ≠ 0 && !repairingIn s g.cbAddr cb && !repairingIn s g.calAddr cal
      else rangeReady s g.wAddr g.wBytes && rangeReady s g.cbAddr cb && rangeReady s g.calAddr cal)

/-! ### The order of a Roll (R105, R129, R130) -/

/-- Micro-batches of a reel, as numbers of the plan. -/
def reelMicros (s : State) (reel : Nat) : List Nat := (s.plan.micros.zipIdx.filter (fun m => m.1.reel = reel)).map (·.2)

def tenantOfMicro (s : State) (m : Nat) : Nat := (s.plan.micros.getD m ⟨0, 0, []⟩).tenant

/-- The stage has run on a micro-batch in this frame. -/
def hasRun (s : State) (reel stage m : Nat) : Bool := s.work.ran.contains (reel, stage, m)

/-- Waves of a reel before the one that begins at place `k` of its micro-batches that are still between EMBED and LMHEAD. -/
def wavesOpen (s : State) (reel k : Nat) (r : Reel) : Nat :=
  let ms := (reelMicros s reel).take k
  let lm := r.stages.findIdx fun g => g.kind = kLmhead
  ((List.range (ceilDiv k (r.waveM1 + 1))).filter fun w =>
    ((ms.drop (w * (r.waveM1 + 1))).take (r.waveM1 + 1)).any fun m => !hasRun s reel lm m).length

/-- The stage's turn has come: it has not run on this micro-batch, the wave has passed every earlier record, earlier waves and earlier
micro-batches of the tenant have passed the stage, and a set of home slots is free for a wave that enters EMBED. -/
def stageTurn (s : State) (r : Reel) (i : StageIn) (g : Stage) : Bool :=
  let ms := reelMicros s i.reel
  let k := ms.findIdx (· = i.mb)
  let k0 := k - k % (r.waveM1 + 1)
  let wave := (ms.drop k0).take (r.waveM1 + 1)
  let ahead := ms.take k0 ++ (ms.take k).filter fun m => tenantOfMicro s m = tenantOfMicro s i.mb
  !hasRun s i.reel i.stage i.mb && wave.all (fun m => (List.range i.stage).all fun n => hasRun s i.reel n m)
    && ahead.all (hasRun s i.reel i.stage) && (g.kind ≠ kEmbed || wavesOpen s i.reel k0 r ≤ r.flightM1)

/-- Slots of an array of the stage's position (R136). -/
def slotsAt (r : Reel) (pos : Nat) : Nat := slotCount r.waveM1 r.flightM1 (pos = r.home)

/-- The stage's job on the micro-batch: Roll runs, the reel is resident, the record has this kind, its turn has come, and its position
has the slot that it fills; a SAMPLE stage fills none (R121). -/
def jobNamed (s : State) (i : StageIn) (kind : Nat) : Option Job :=
  let r := reelOf s i.reel
  if s.frame.phase = .roll && s.frame.kind = .frame && i.reel < 4 && r.st = .resident then
    match r.stages[i.stage]?, s.plan.micros[i.mb]? with
    | some g, some m =>
      if g.kind = kind && m.reel = i.reel && stageTurn s r i g && (kind = kSample || i.slot < slotsAt r g.pos) then some ⟨i, r, g, m⟩ else none
    | _, _ => none
  else none

/-- Output of the stages that the job names, one after another; none when one of them is missing for the token. -/
def inputOf (s : State) (j : Job) (t : Nat × Nat) : Option (List F32) :=
  j.inp.src.foldl (fun a g => match a, actGet s j.inp.reel g t with | some x, some y => some (x ++ y) | _, _ => none) (some [])

/-- Route of a token that a stage left (R159). -/
def routeOf (s : State) (slot stage : Nat) (t : Nat × Nat) : Option (List (Nat × F32)) := mapGet s.routes (actKey slot stage t.1 t.2)

/-- A bank run of a stage on the micro-batch has not ended. -/
def runOpen (s : State) (reel stage mb : Nat) : Bool := s.runs.any fun x => x.reel = reel && x.stage = stage && x.mb = mb

/-- The token's inputs are present (R130). -/
def tokenReady (s : State) (j : Job) (t : Nat × Nat) : Bool :=
  let act := fun n => (actGet s j.inp.reel (j.inp.src.getD n 0) t).isSome
  let named := (inputOf s j t).any fun x => !weightKind j.g.kind || x.length = j.g.inDim
  let k := j.g.kind
  if k = kEmbed || k = kSample then true
  else if k = kNorm then (residGet s j.inp.reel t).isSome
  else if k = kLmhead && j.inp.src = [] then (residGet s j.inp.reel t).any fun x => x.length = j.g.inDim
  else if k = kAct then act 0 && act 1
  else if k = kExpert || k = kCombine then act 0 && (routeOf s j.inp.reel (j.inp.src.getD 1 0) t).isSome
  else if k = kResid then j.inp.src ≠ [] && named && (residGet s j.inp.reel t).isSome
  else j.inp.src ≠ [] && named

/-- Every token of an entry that has met no fault has its inputs, and no bank run still brings some (R130, R133). -/
def inputsReady (s : State) (j : Job) : Bool :=
  j.mb.toks.all (fun t => s.plan.faults.any (·.1 = t.1) || tokenReady s j t)
    && j.inp.src.all fun g => !runOpen s j.inp.reel g j.inp.mb

/-- The stage may run: its weights and its inputs are there. -/
def jobOf (s : State) (i : StageIn) (kind : Nat) : Option Job :=
  match jobNamed s i kind with
  | some j => if weightsReady s i j.g && inputsReady s j then some j else none
  | none => none

/-- The job's tokens with an input, and the inputs. -/
def tokenInputs (s : State) (j : Job) : List ((Nat × Nat) × List F32) :=
  j.mb.toks.filterMap fun t => (inputOf s j t).map fun x => (t, x)

/-- Puts outputs of the job's stage. -/
def putOutputs (s : State) (j : Job) (outs : List ((Nat × Nat) × List F32)) : State :=
  forEach outs s fun s o => actPut s j.inp.reel j.inp.stage o.1 o.2

/-! ### Arrays (R127, R129, R137, R140) -/

/-- Arrays bound to the job's position with their replica indices; SAMPLE binds none (R121). -/
def jobArrays (j : Job) : List (Nat × Nat) :=
  if j.g.kind = kSample then [] else (j.reel.arrays.filter (fun a => a.2.1 = j.g.pos)).map fun a => (a.1, a.2.2)

/-- The first micro-batch of the job's wave (R129). -/
def waveFirst (s : State) (j : Job) : Nat :=
  let ms := reelMicros s j.inp.reel
  let k := ms.findIdx (· = j.inp.mb)
  ms.getD (k - k % (j.reel.waveM1 + 1)) 0

/-- What a slot of a position held of a micro-batch is gone: the outputs of the position's stages, and at the home position the residual
stream. -/
def dropSlot (s : State) (j : Job) (m : Nat) : State :=
  let toks := (s.plan.micros.getD m ⟨0, 0, []⟩).toks
  let here := (List.range j.reel.stages.length).filter fun n => (j.reel.stages[n]?).any (·.pos = j.g.pos)
  let gone := here.flatMap fun n => toks.map fun t => actKey j.inp.reel n t.1 t.2
  let home := if j.g.pos = j.reel.home then toks.map fun t => actKey j.inp.reel 0 t.1 t.2 else []
  { s with acts := s.acts.filter fun p => !gone.contains p.1
           resid := s.resid.filter fun p => !home.contains p.1 }

/-- Each slot holds one micro-batch (R136): a new one takes the place of the one it held. -/
def fillSlot (s : State) (j : Job) (a : Nat) : State :=
  let k := a * 64 + j.inp.slot
  let s := match mapGet s.work.slots k with
    | some m => if m = j.inp.mb then s else dropSlot s j m
    | none => s
  { s with work := { s.work with slots := mapPut s.work.slots k j.inp.mb } }

/-- A slot takes data of a tenant: it is zeroed first when its tag names another (R137). -/
def tagSlot (s : State) (a slot tenant : Nat) : State :=
  let ft := fldAt (inst ARY_SLOT_TENANT a) slot 8
  let fv := fldAt (inst ARY_SLOT_VALID a) slot 8
  let s := if rd0 s fv = 1 && rd0 s ft ≠ tenant then bump0 s (inst ARY_CLEAR_CNT a) 1 else s
  wr0 (wr0 s ft tenant) fv 1

/-- One array takes the stage up: its registers, its slot, and for a weight stage the tiles in its staging area. -/
def enterArray (s : State) (j : Job) (a : Nat) (bank : Bool) : State :=
  let put := fun s f v => wr0 s (inst f a) v
  let s := put (put s ARY_STS_KIND j.g.kind) ARY_STS_LAYER j.g.layer
  let s := put (put (put s ARY_STS_MB (waveFirst s j)) ARY_STS_WAITING 0) ARY_STS_RETAKE 0
  let s := tagSlot (fillSlot (put s ARY_STS_BANK bank.toNat) j a) a j.inp.slot j.mb.tenant
  if weightKind j.g.kind then { s with work := { s.work with tiles := mapPut s.work.tiles a (j.inp.reel, j.inp.stage) } } else s

/-- The first stage of the frame that waits for weights is kept for the report (R111, R113). -/
def noteWait (s : State) (i : StageIn) : State :=
  if s.work.waited.isSome then s else { s with work := { s.work with waited := some (i.stage, i.reel) } }

/-- A stage whose turn has come and whose weights are not there waits on its arrays (R111). -/
def waitStage (s : State) (i : StageIn) (kind : Nat) : State :=
  match jobNamed s i kind with
  | some j =>
    if weightsReady s i j.g then s
    else forEach (jobArrays j) (noteWait s i) fun s a =>
      let put := fun s f v => wr0 s (inst f a.1) v
      put (put (put (put s ARY_STS_KIND j.g.kind) ARY_STS_LAYER j.g.layer) ARY_STS_MB (waveFirst s j)) ARY_STS_WAITING 1
  | none => s

/-- Array of replica `r`, the first one where there is none. -/
def replicaArray (j : Job) (r : Nat) : Nat := (((jobArrays j).find? (fun a => a.2 = r)).map (·.1)).getD (((jobArrays j).headD (0, 0)).1)

/-- Bytes of the stage's first tile with its group record, which an error in the staging area streams again (R140; DESIGN CHOICE, log entry
106: the command does not name the tile). -/
def tileBytes (j : Job) : Nat :=
  match stageMats j.reel.vocab (mapGetD j.reel.inner j.inp.stage 0) j.g with
  | m :: _ => 16 * min 128 m.1 * codeWidth j.g.codeW + groupRecBytes j.g.codeW
  | [] => 0

/-- SRAM errors of a stage (R140); whether the frame fails. -/
def sramErrors (s : State) (j : Job) : State × Bool :=
  let i := j.inp
  let a := replicaArray j i.rep
  let s := correctedEcc (bump0 s (inst ARY_ECC_CORR a) i.corrected) 0x22 a i.corrected
  let s := bump0 s (inst ARY_ECC_UNCORR a) (i.tileUe + i.slotUe.toNat)
  let s := if i.tileUe = 0 then s else bump0 s (inst ARY_STREAM_B a) (tileBytes j)
  if 2 ≤ i.tileUe || i.slotUe then
    (failFrame (raise s { cls := clFrame, reason := 0x303, type := 0x22, inst := a }), true)
  else (s, false)

/-- The stage has passed the micro-batch: its record counts the pass (R169). -/
def passStage (s : State) (i : StageIn) : State :=
  let r := reelOf s i.reel
  let a := mapGetD r.amax i.stage amaxZero
  let s := setReel s i.reel { r with amax := mapSet amaxZero r.amax i.stage { a with mb := satAdd 32 a.mb 1 } }
  { s with work := { s.work with ran := s.work.ran ++ [(i.reel, i.stage, i.mb)] } }

/-- A stage runs: its arrays take it up, SRAM errors are met, and `f` does its work unless the frame failed. -/
def runStage (s : State) (i : StageIn) (kind : Nat) (bank : Job → State → Bool) (f : State → Job → State) : State :=
  match jobOf s i kind with
  | none => waitStage s i kind
  | some j =>
    let b := bank j s
    let s := forEach (jobArrays j) s fun s a => enterArray s j a.1 b
    let (s, failed) := if kind = kSample then (s, false) else sramErrors s j
    if failed then s
    else
      let s := passStage (f s j) i
      if j.g.streamed && (reelMicros s i.reel).all (hasRun s i.reel i.stage) then
        { s with streamBuf := mapDel s.streamBuf (streamKey i.reel i.stage) }
      else s

def onArray (_ : Job) (_ : State) : Bool := false

/-! ### Weights (R143 to R147, R303) -/

/-- Bytes of one slot of a reel's stream buffer (R302). -/
def streamSlotBytes (r : Reel) : Nat := ceilDiv ((r.stages.filter (·.streamed)).foldl (fun m g => max m g.wBytes) 0) (2 ^ 21) * 2 ^ 21

/-- Unified address of slot `n` of a reel's stream buffer. -/
def streamSlotAddr (s : State) (slot n : Nat) : Nat :=
  (objOf s (rd0 s (fldAt UMR_STREAM_OBJ slot 8))).base + n * streamSlotBytes (reelOf s slot)

/-- Address that a weight byte of the job's stage is read at: its slot's for a STREAMED stage. -/
def weightAddr (s : State) (j : Job) (a : Nat) : Nat :=
  if j.g.streamed && j.g.wAddr ≤ a && a < j.g.wAddr + j.g.wBytes then
    streamSlotAddr s j.inp.reel (mapGetD s.streamBuf (streamKey j.inp.reel j.inp.stage) 1 - 1) + (a - j.g.wAddr)
  else a

def wNat (s : State) (j : Job) (a n : Nat) : Nat := uNat s (weightAddr s j a) n

/-- A matrix of the stage: rows, columns, byte offset from W_ADDR, first group record. -/
structure Mat where
  rows : Nat
  cols : Nat
  off : Nat
  grp : Nat

def matsFrom (cw : Nat) : Nat → Nat → List (Nat × Nat) → List Mat
  | _, _, [] => []
  | off, n, m :: ms => ⟨m.1, m.2, off, n⟩ :: matsFrom cw (off + matBytes cw m) (n + matGroups m) ms

def innerSize (j : Job) : Nat := mapGetD j.reel.inner j.inp.stage 0

def jobMats (j : Job) : List Mat := matsFrom j.g.codeW 0 0 (stageMats j.reel.vocab (innerSize j) j.g)

def noMat : Mat := ⟨0, 0, 0, 0⟩

/-- The code of row `o` and column `c` (R144). -/
def codeAt (s : State) (j : Job) (m : Mat) (o c : Nat) : Nat :=
  let b := codeWidth j.g.codeW
  let t := o / 128
  let g := c / 128
  let h := min 128 (m.rows - 128 * t)
  let k := b * (128 * (o % 128) + c % 128)
  let a := j.g.wAddr + m.off + t * (m.cols / 128) * (2048 * b) + g * (16 * h * b) + k / 8
  wNat s j a 2 / 2 ^ (k % 8) % 2 ^ b

/-- Address of the group record of block `t` and group `g` (R145). -/
def recAddr (j : Job) (m : Mat) (t g : Nat) : Nat :=
  j.g.cbAddr + (m.grp + t * (m.cols / 128) + g) * groupRecBytes j.g.codeW

/-- Codebook entry of a code. -/
def cbEntry (s : State) (j : Job) (m : Mat) (t g code : Nat) : Int := signed 8 (wNat s j (recAddr j m t g + code) 1)

/-- Group scale. -/
def groupScale (s : State) (j : Job) (m : Mat) (t g : Nat) : F32 :=
  f32OfF16 (wNat s j (recAddr j m t g + max 8 (2 ^ codeWidth j.g.codeW)) 2)

/-- The integer sum of a group for one output row (R152). -/
def groupSum (s : State) (j : Job) (m : Mat) (o g : Nat) (q : List Int) : Int :=
  (q.zipIdx.map fun x => cbEntry s j m (o / 128) g (codeAt s j m o (128 * g + x.2)) * x.1).foldl (· + ·) 0

/-- Calibrated record `n` of the stage: SCALE and INV (R149). -/
def calScale (s : State) (j : Job) (n : Nat) : F32 := BitVec.ofNat 32 (uNat s (j.g.calAddr + 8 * n) 4)
def calInv (s : State) (j : Job) (n : Nat) : F32 := BitVec.ofNat 32 (uNat s (j.g.calAddr + 8 * n + 4) 4)

/-- One output row for one token, groups in ascending order (R155). `cal` is the input's first calibrated record. -/
def projRow (s : State) (j : Job) (m : Mat) (cal o : Nat) (q : List Int) : F32 :=
  (List.range (m.cols / 128)).foldl (fun y g =>
    let k := f32Mul (groupScale s j m (o / 128) g) (calScale s j (cal + g))
    f32Fma (f32OfInt (groupSum s j m o g ((q.drop (128 * g)).take 128))) k y) 0

def projRows (s : State) (j : Job) (m : Mat) (cal : Nat) (q : List Int) : List F32 :=
  (List.range m.rows).map fun o => projRow s j m cal o q

/-! ### Quantised inputs (R151, R164, R168) -/

/-- QUANT of a vector under the calibrated records from `cal` on. -/
def quantVec (s : State) (j : Job) (cal : Nat) (xs : List F32) : List Quant :=
  xs.zipIdx.map fun x => quant16 x.1 (calInv s j (cal + x.2 / 128))

def codesOf (qs : List Quant) : List Int := qs.map (·.code)

def wideVec (qs : List Quant) : Bool := qs.any fun q => 127 < q.code.natAbs

def sat32 (a b : Nat) : Nat := satAdd 32 a b

/-- One quantised element in the stage's absmax record; `second`: it belongs to the down-matrix input of expert `n`. An equal magnitude met
later in a lower group or expert takes the record's group there (R168: 'a tie goes to the lowest'; over micro-batches this is the
model's choice, log entry 107). -/
def noteQuant (second : Bool) (n : Nat) (r : Amax) (q : Quant) : Amax :=
  if q.nan then { r with nan := sat32 r.nan 1 }
  else
    let r := if q.clamp then { r with clamp := sat32 r.clamp 1 } else r
    if second then
      if f32Lt r.amax2 q.mag then { r with amax2 := q.mag, exp2 := n }
      else if r.amax2 = q.mag && r.amax2 ≠ 0 && n < r.exp2 then { r with exp2 := n } else r
    else if f32Lt r.amax q.mag then { r with amax := q.mag, group := n }
    else if r.amax = q.mag && r.amax ≠ 0 && n < r.group then { r with group := n } else r

def noteVec (second : Bool) (n : Nat) (r : Amax) (qs : List Quant) : Amax :=
  qs.zipIdx.foldl (fun r q => noteQuant second (if second then n else q.2 / 128) r q.1) r

def amaxOf (r : Reel) (stage : Nat) : Amax := mapGetD r.amax stage amaxZero

/-- Clamped and NaN elements count in the STA page too (R151). -/
def countQuants (s : State) (qs : List Quant) : State :=
  bump0 (bump0 s STA_CLAMP_CNT ((qs.filter (·.clamp)).length)) STA_NAN_CNT ((qs.filter (·.nan)).length)

/-- The stage's record takes a new value. -/
def putAmax (s : State) (j : Job) (a : Amax) : State :=
  let r := reelOf s j.inp.reel
  setReel s j.inp.reel { r with amax := mapSet amaxZero r.amax j.inp.stage a }

/-- A stage counts as retaken for the micro-batch (R167). -/
def countRetake (s : State) (j : Job) : State :=
  let r := reelOf s j.inp.reel
  let a := amaxOf r j.inp.stage
  let s := setReel s j.inp.reel { r with amax := mapSet amaxZero r.amax j.inp.stage { a with wide := sat32 a.wide 1 } }
  let s := bump0 s STA_RETAKE_CNT 1
  let s := forEach (jobArrays j) s fun s a => wr0 (bump0 s (inst ARY_RETAKE_CNT a.1) 1) (inst ARY_STS_RETAKE a.1) 1
  { s with plan := { s.plan with
      retakes := mapSet 0 s.plan.retakes j.mb.tenant (mapGetD s.plan.retakes j.mb.tenant 0 + 1)
      paths := s.plan.paths.map fun p =>
        if p.layer = j.g.layer && p.reel = j.inp.reel then { p with retakes := p.retakes + 1 } else p } }

/-! ### Work of the cells (R115 to R118, R127) -/

/-- Tiles of a matrix that replica `r` of `n` computes, and the bytes it streams for them. -/
def replicaWork (cw : Nat) (m : Mat) (n r : Nat) : Nat × Nat :=
  let gs := m.cols / 128
  ((List.range (ceilDiv m.rows 128)).filter (fun t => t % n = r)).foldl (fun a t =>
    (a.1 + gs, a.2 + gs * (16 * min 128 (m.rows - 128 * t) * codeWidth cw + groupRecBytes cw))) (0, 0)

/-- Counts the cells' work: tiles and streamed bytes once for a wave, and a clock for each token that passes a tile, two for an A16
token (R117, R118). -/
def countCells (s : State) (j : Job) (ms : List Mat) (tokens wide : Nat) (first : Bool) : State :=
  let n := (jobArrays j).length
  forEach (jobArrays j) s fun s a =>
    let w := ms.foldl (fun w m => let x := replicaWork j.g.codeW m n a.2; (w.1 + x.1, w.2 + x.2)) (0, 0)
    let s := bump0 s (inst ARY_BUSY_CYC a.1) (w.1 * (tokens + wide))
    if first then bump0 (bump0 s (inst ARY_TILE_CNT a.1) w.1) (inst ARY_STREAM_B a.1) w.2 else s

/-! ### The bank path (R132, R209 to R211) -/

/-- Bytes of a sub-run's input in area A (R209): element c of group g of token i. -/
def stagingBytes (e : Nat) (qs : List (List Int)) : Bytes :=
  let groups := ((qs.map List.length).foldl max 0) / 128
  (List.range groups).flatMap fun g => qs.flatMap fun q => ((q.drop (128 * g)).take 128).flatMap fun c => leBytes e (twos (8 * e) c)

/-- Bytes go to a bank's staging rows from a row on, row by row. -/
def stageWrite (s : State) (key row : Nat) (b : Bytes) : State :=
  let n := ceilDiv b.length Config.rowBytes
  noteStaged (forEach (List.range n) s fun s i => rowWrite s key (row + i) (b.drop (Config.rowBytes * i))) key (upto row n)

/-- Pieces of a list of at most `n` items each. -/
def chunksOf {α : Type} (n : Nat) : Nat → List α → List (List α)
  | 0, _ => []
  | _, [] => []
  | fuel + 1, xs => xs.take (max n 1) :: chunksOf n fuel (xs.drop (max n 1))

/-- A run's banks: those that its placement records name for its expert. -/
def runBanks (s : State) (reel stage expert : Nat) : List PlaceRec :=
  match (reelOf s reel).stages[stage]? with
  | none => []
  | some g => (placements s (progHead s g.progAddr)).filter fun p => p.expert = expert

/-- The input of a sub-run goes into area A of every bank of the run (R209). -/
def feedRun (s : State) (x : BankRun) (qs : List (List Int)) : State :=
  let b := stagingBytes (if x.wide then 2 else 1) qs
  forEach (runBanks s x.reel x.stage x.expert) s fun s p => stageWrite s p.key (stageRow0 s p.key) b

/-- A unit belongs to a run (R202). -/
def unitInRun (u : UnitSt) (x : BankRun) : Bool := u.reel = x.reel && u.stage = x.stage && u.expert = x.expert

/-- The stage's kind is EXPERT. -/
def runIsExpert (s : State) (x : BankRun) : Bool := ((reelOf s x.reel).stages[x.stage]?).any fun g => g.kind = kExpert

/-- N of a run: a PROJ sub-run is a complete run of its own; an EXPERT run is one over all of its tokens (R210). -/
def runTokens (s : State) (x : BankRun) : Nat := if runIsExpert s x then x.toks.length else x.count

/-- Units that the switch to processor mode has launched take the run's tokens and width, and the watchdog of R202. -/
def setRunParams (s : State) (x : BankRun) : State :=
  let h := progHead s (((reelOf s x.reel).stages[x.stage]?).map (·.progAddr) |>.getD 0)
  let n := runTokens s x
  { s with units := s.units.map fun u =>
      if u.2.running && unitInRun u.2 x && bankChan u.1 < 30 then (u.1, { u.2 with n := n, wideRun := x.wide, limit := h.maxCyc * n }) else u }

/-- A run begins on the bank path (R209, R210): a sub-run is at most the tokens that area A holds; the first one's input is delivered,
and the others wait for the end of the one before. `toks`: each token with the place of its output. -/
def bankRun (s : State) (j : Job) (expert : Nat) (wide : Bool) (toks : List ((Nat × Nat) × Nat)) (qs : List (List Int)) : State :=
  let ps := runBanks s j.inp.reel j.inp.stage expert
  if ps = [] || qs = [] then s
  else
    let onStacks := (ps.map fun p => bankStack p.key).eraseDups
    let e := if wide then 2 else 1
    let cap := (onStacks.map fun k => rd0 s (inst BNK_STAGE_A_ROWS k) * 1024 / (j.g.inDim * e)).foldl min 65536
    let subs := chunksOf cap qs.length qs
    let s := forEach onStacks s fun s k => bump0 s (inst BNK_RUN_CNT k) 1
    let s := forEach ps s fun s p => tagStaging s p.key j.mb.tenant
    let q := subs.headD []
    let x : BankRun := ⟨j.inp.reel, j.inp.stage, expert, j.inp.mb, toks, wide, 0, q.length, subs.drop 1⟩
    setRunParams (feedRun { s with runs := s.runs ++ [x] } x q) x

/-! ### Dense weight stages: PROJ, ROUTE, LMHEAD -/

/-- Quantised inputs of the job's tokens. -/
def denseInputs (s : State) (j : Job) (xs : List ((Nat × Nat) × List F32)) : List ((Nat × Nat) × List Quant) :=
  xs.map fun x => (x.1, quantVec s j 0 x.2)

/-- Counters and statistics of a dense stage, and its staging on the bank path. -/
def denseNotes (s : State) (j : Job) (bank : Bool) (qs : List ((Nat × Nat) × List Quant)) : State :=
  let wide := qs.any fun q => wideVec q.2
  let s := countQuants s (qs.flatMap (·.2))
  let s := putAmax s j (qs.foldl (fun a q => noteVec false 0 a q.2) (amaxOf (reelOf s j.inp.reel) j.inp.stage))
  let s := if wide then countRetake s j else s
  if bank then bankRun s j 0 wide (qs.map fun q => (q.1, 0)) (qs.map fun q => codesOf q.2)
  else countCells s j (jobMats j) qs.length (if wide then qs.length else 0) (waveFirst s j = j.inp.mb)

/-- Outputs of a dense stage (R155): the same on both paths (R156). -/
def denseOutputs (s : State) (j : Job) (qs : List ((Nat × Nat) × List Quant)) : List ((Nat × Nat) × List F32) :=
  qs.map fun q => (q.1, projRows s j ((jobMats j).headD noMat) 0 (codesOf q.2))

def bankStage (j : Job) (s : State) : Bool := s.plan.bankStages.contains (j.inp.reel, j.inp.stage)

def runProj (s : State) (j : Job) : State :=
  let qs := denseInputs s j (tokenInputs s j)
  putOutputs (denseNotes s j (bankStage j s) qs) j (denseOutputs s j qs)

/-- Scores as ROUTE reads them (R159). -/
def routeScore (x : F32) : F32 := if f32IsNan x || x = f32Inf true then 0xFF7FFFFF else x

/-- Inserts by score descending, ties to the lower index, keeping `n` items. -/
def topInsert (n : Nat) (x : F32 × Nat) : List (F32 × Nat) → List (F32 × Nat)
  | [] => if n = 0 then [] else [x]
  | y :: ys =>
    if n = 0 then []
    else if f32Key x.1 > f32Key y.1 || (f32Key x.1 = f32Key y.1 && decide (x.2 < y.2)) then (x :: y :: ys).take n
    else y :: topInsert (n - 1) x ys

/-- The `n` largest items, largest first. -/
def topItems (n : Nat) (xs : List (F32 × Nat)) : List (F32 × Nat) := xs.foldl (fun a x => topInsert n x a) []

/-- Chosen experts in ascending index with their weights. -/
def routeChoice (topk : Nat) (scores : List F32) : List (Nat × F32) :=
  let top := topItems topk (scores.zipIdx.map fun x => (routeScore x.1, x.2))
  let mx := (top.headD (0, 0)).1
  let chosen := sortBy (fun a b => decide (a.2 < b.2)) top
  let ps := chosen.map fun x => (x.2, exp2K (f32Mul (f32SubOp x.1 mx) kLog2e))
  let z := ps.foldl (fun z p => f32Add z p.2) 0
  ps.map fun p => (p.1, f32Mul p.2 (rcpK z))

def runRoute (s : State) (j : Job) : State :=
  let qs := denseInputs s j (tokenInputs s j)
  let outs := denseOutputs s j qs
  let s := denseNotes s j false qs
  forEach outs s fun s o =>
    { s with routes := mapPut s.routes (actKey j.inp.reel j.inp.stage o.1.1 o.1.2) (routeChoice j.g.topk (o.2.take j.g.experts)) }

/-- LMHEAD reads the residual stream where the job names no other input (R131). -/
def lmInputs (s : State) (j : Job) : List ((Nat × Nat) × List F32) :=
  if j.inp.src = [] then j.mb.toks.filterMap fun t => (residGet s j.inp.reel t).map fun x => (t, x) else tokenInputs s j

def runLmhead (s : State) (j : Job) : State :=
  let qs := denseInputs s j (lmInputs s j)
  let outs := denseOutputs s j qs
  let s := denseNotes s j false qs
  forEach outs s fun s o => { s with logits := mapPut s.logits (actKey j.inp.reel j.inp.stage o.1.1 o.1.2) o.2 }

/-! ### EXPERT and COMBINE (R107, R133, R159, R164) -/

/-- Output of one expert for one token: gate and up, ACT, QUANT, down; with the quantised down-matrix input. -/
def expertOut (s : State) (j : Job) (e : Nat) (q : List Int) : List F32 × List Quant :=
  let ms := jobMats j
  let gate := projRows s j (ms.getD (3 * e) noMat) 0 q
  let up := projRows s j (ms.getD (3 * e + 1) noMat) 0 q
  let h := List.zipWith (fun a b => f32Mul (siluK a) b) gate up
  let cal := j.g.inDim / 128 + e * (innerSize j / 128)
  let hq := quantVec s j cal h
  (projRows s j (ms.getD (3 * e + 2) noMat) cal (codesOf hq), hq)

/-- Tokens with their quantised input and route. -/
def expertInputs (s : State) (j : Job) : List ((Nat × Nat) × List Quant × List (Nat × F32)) :=
  j.mb.toks.filterMap fun t =>
    match actGet s j.inp.reel (j.inp.src.headD 0) t, routeOf s j.inp.reel (j.inp.src.getD 1 0) t with
    | some x, some r => some (t, quantVec s j 0 x, r)
    | _, _ => none

/-- An expert chosen by `n` tokens of the micro-batch runs on BANK (R107, R108). -/
def expertBank (s : State) (j : Job) (n : Nat) : Bool :=
  let th := (s.plan.paths.find? fun p => p.layer = j.g.layer && p.reel = j.inp.reel).map (·.thresh)
  takesBank s j.g n (th.getD 0)

/-- Some expert of the micro-batch runs on BANK (R132). -/
def expertOnBank (j : Job) (s : State) : Bool :=
  let ins := expertInputs s j
  (List.range j.g.experts).any fun e =>
    let n := (ins.filter fun t => t.2.2.any fun r => r.1 = e).length
    n ≠ 0 && expertBank s j n

/-- Place of an expert's output in a token's output of the stage. -/
def expertPlace (j : Job) (route : List (Nat × F32)) (e : Nat) : Nat := (route.findIdx fun r => r.1 = e) * j.g.outDim

/-- Micro-batches of the job's wave that run before it. -/
def waveEarlier (s : State) (j : Job) : List Micro :=
  let ms := reelMicros s j.inp.reel
  let k := ms.findIdx (· = j.inp.mb)
  ((ms.take k).drop (k - k % (j.reel.waveM1 + 1))).filterMap fun m => s.plan.micros[m]?

/-- The expert's matrices stream to the array with this micro-batch: no earlier one of the wave sent the expert to ARRAY (R133). -/
def expertStreams (s : State) (j : Job) (e : Nat) : Bool :=
  !(waveEarlier s j).any fun m =>
    let n := (m.toks.filter fun t => ((routeOf s j.inp.reel (j.inp.src.getD 1 0) t).getD []).any (·.1 = e)).length
    n ≠ 0 && !expertBank s j n

/-- One chosen expert over the tokens that chose it: its path, its counters and its statistics; on BANK the down-matrix statistics come
with the collections of phase 0 (R224). -/
def runOneExpert (j : Job) (ins : List ((Nat × Nat) × List Quant × List (Nat × F32))) (inputWide : Bool)
    (a : State × Amax × Bool) (e : Nat) : State × Amax × Bool :=
  let (s, am, wide) := a
  let toks := ins.filter fun t => t.2.2.any (fun r => r.1 = e)
  let hs := toks.map fun t => (expertOut s j e (codesOf t.2.1)).2
  let downWide := hs.any wideVec
  let n := toks.length
  let bank := expertBank s j n
  let am := if bank then am else hs.foldl (fun a h => noteVec true e a h) am
  let s := { s with plan := { s.plan with paths := s.plan.paths.map fun p =>
      if p.layer = j.g.layer && p.reel = j.inp.reel then
        (if bank then { p with expBank := p.expBank + 1 } else { p with expArray := p.expArray + 1 }) else p } }
  let s :=
    if bank then bankRun s j e inputWide (toks.map fun t => (t.1, expertPlace j t.2.2 e)) (toks.map fun t => codesOf t.2.1)
    else
      let s := countQuants s hs.flatten
      let ms := jobMats j
      let first := expertStreams s j e
      let s := countCells s j [ms.getD (3 * e) noMat, ms.getD (3 * e + 1) noMat] n (if inputWide then n else 0) first
      countCells s j [ms.getD (3 * e + 2) noMat] n (if downWide then n else 0) first
  (s, am, wide || downWide)

def runExpert (s : State) (j : Job) : State :=
  let ins := expertInputs s j
  let inputWide := ins.any fun t => wideVec t.2.1
  let experts := (List.range j.g.experts).filter fun e => ins.any fun t => t.2.2.any (fun r => r.1 = e)
  let outs := ins.map fun t => (t.1, t.2.2.flatMap fun r => (expertOut s j r.1 (codesOf t.2.1)).1)
  let am := ins.foldl (fun a t => noteVec false 0 a t.2.1) (amaxOf (reelOf s j.inp.reel) j.inp.stage)
  let (s, am, wide) := experts.foldl (runOneExpert j ins inputWide) (countQuants s (ins.flatMap (·.2.1)), am, inputWide)
  let s := putAmax s j am
  putOutputs (if wide then countRetake s j else s) j outs

/-- Weighted sum of the chosen experts' outputs in ascending expert index. -/
def combineVec (width : Nat) (ys : List F32) (route : List (Nat × F32)) : List F32 :=
  (List.range width).map fun i =>
    (route.zipIdx).foldl (fun o r => f32Fma r.1.2 (ys.getD (r.2 * width + i) 0) o) 0

def runCombine (s : State) (j : Job) : State :=
  let outs := j.mb.toks.filterMap fun t =>
    match actGet s j.inp.reel (j.inp.src.headD 0) t, routeOf s j.inp.reel (j.inp.src.getD 1 0) t with
    | some y, some r => some (t, combineVec j.g.outDim y r)
    | _, _ => none
  putOutputs s j outs

/-! ### EMBED (R65, R71, R76, R147, R510) -/

/-- The fault of an entry found first stands (R510). -/
def planFault (s : State) (e status : Nat) : State :=
  if s.plan.faults.any (·.1 = e) then s else { s with plan := { s.plan with faults := s.plan.faults ++ [(e, status)] } }

/-- A fault of the chunk's tokens: they are read before the cache, so it outranks one of an earlier micro-batch's cache reads (R510). -/
def tokenFault (s : State) (e status : Nat) : State :=
  if s.plan.tokFaults.contains e then s
  else planFault { s with plan := { s.plan with faults := s.plan.faults.filter (·.1 ≠ e), tokFaults := s.plan.tokFaults ++ [e] } } e status

/-- Token id of position `p` of an entry in this frame: the pending token, a draft, or a prompt token as it was read. The status is
the fault that a bad or failed read gives. -/
def tokenId (s : State) (vocab : Nat) (chunks : List ChunkTokens) (e p : Nat) : Except Nat Nat :=
  let x := entryOf s e
  match s.plan.planned.find? (·.entry = e) with
  | none => .error stBadField
  | some a =>
    let k := p - a.base
    if a.pend && k = 0 then .ok x.pendTok
    else
      let n := k - a.pend.toNat
      if !a.chunk then .ok (a.drafts.getD n 0)
      else
        match (((chunks.find? (·.entry = e)).map (·.toks)).getD []).getD n none with
        | none => .error stUncorrected
        | some w => if vocab ≤ w.toNat then .error stBadField else .ok w.toNat

/-- Row of a token id in the embedding matrix (R147). -/
def embedRow (s : State) (j : Job) (v : Nat) : List F32 :=
  let m := (jobMats j).headD noMat
  (List.range m.cols).map fun c =>
    f32Mul (f32OfInt (cbEntry s j m (v / 128) (c / 128) (codeAt s j m v c))) (groupScale s j m (v / 128) (c / 128))

/-- The residual stream of the micro-batch's tokens begins; an entry that met a fault has none. -/
def runEmbed (chunks : List ChunkTokens) (s : State) (j : Job) : State :=
  forEach j.mb.toks s fun s t =>
    match tokenId s j.reel.vocab chunks t.1 t.2 with
    | .error st => tokenFault s t.1 st
    | .ok v => if s.plan.faults.any (·.1 = t.1) then s else residPut s j.inp.reel t (embedRow s j v)

/-! ### The post unit's stages (R159) -/

/-- The nearest FP32 to 1 / n: twice the quotient with a sticky bit for a remainder. -/
def f32Inv (n : Nat) : F32 :=
  if n = 0 then f32Inf false else packF false (2 * (2 ^ 100 / n) + (decide (2 ^ 100 % n ≠ 0)).toNat) (-101)

/-- Sum of squares by blocks of 128 channels, each reduced pairwise. -/
def sumSquares (xs : List F32) : F32 :=
  (List.range (ceilDiv xs.length 128)).foldl (fun a k =>
    let b := ((xs.drop (128 * k)).take 128).map fun x => f32Mul x x
    f32Add a (pairReduce 7 (b ++ List.replicate (128 - b.length) 0))) 0

/-- Parameter `n` of the stage (log entry 5): weights from 0 on, then EPS, for NORM; cosine and sine by position for ROPE. -/
def stageParam (j : Job) (n : Nat) : F32 := Config.kparam j.reel.digest j.g.kparam n

def normVec (j : Job) (xs : List F32) : List F32 :=
  let r := rsqrtK (f32Fma (sumSquares xs) (f32Inv xs.length) (stageParam j xs.length))
  xs.zipIdx.map fun x => f32Mul (f32Mul x.1 r) (stageParam j x.2)

def runNorm (s : State) (j : Job) : State :=
  putOutputs s j (j.mb.toks.filterMap fun t => (residGet s j.inp.reel t).map fun x => (t, normVec j x))

/-- Head dimension of a reel's ATTN stages (R171). -/
def headDim (r : Reel) : Nat := 64 * 2 ^ (reelAttn r).hdim

/-- Rotates one head at a position. -/
def ropeHead (j : Job) (d pos : Nat) (xs : List F32) : List F32 :=
  let h := d / 2
  let c := fun i => stageParam j (2 * (pos * h + i))
  let sn := fun i => stageParam j (2 * (pos * h + i) + 1)
  let x := fun i => xs.getD i 0
  (List.range h).map (fun i => f32Fma (x i) (c i) (f32Neg (f32Mul (x (i + h)) (sn i))))
    ++ (List.range h).map fun i => f32Fma (x i) (sn i) (f32Mul (x (i + h)) (c i))

def runRope (s : State) (j : Job) : State :=
  let d := headDim j.reel
  putOutputs s j ((tokenInputs s j).map fun t => (t.1, (chunksOf d t.2.length t.2).flatMap (ropeHead j d t.1.2)))

def runResid (s : State) (j : Job) : State :=
  forEach (tokenInputs s j) s fun s t =>
    match residGet s j.inp.reel t.1 with
    | some h => residPut s j.inp.reel t.1 (List.zipWith f32Add h t.2)
    | none => s

/-- ACT of the gate and up outputs. -/
def runAct (s : State) (j : Job) : State :=
  putOutputs s j (j.mb.toks.filterMap fun t =>
    match actGet s j.inp.reel (j.inp.src.headD 0) t, actGet s j.inp.reel (j.inp.src.getD 1 0) t with
    | some g, some u => some (t, List.zipWith (fun a b => f32Mul (siluK a) b) g u)
    | _, _ => none)

/-! ### STREAM_PREFETCH (R303) -/

/-- The stage's number among the STREAMED stages. -/
def streamIndex (r : Reel) (stage : Nat) : Nat := ((r.stages.take stage).filter (·.streamed)).length

/-- A slot of the stream buffer is held by a stage of the reel. -/
def streamHeld (s : State) (reel n : Nat) : Bool := s.streamBuf.any fun p => p.1 / 16384 = reel && p.2 = n + 1

/-- The point at which a STREAMED stage's prefetch starts has come: min(SHL_STREAM.AHEAD, SLOTS - 1) stages before it, the reel's first
wave has reached that stage (R112, R303). -/
def prefetchDue (s : State) (reel stage : Nat) : Bool :=
  let d := min (rd0 s SHL_STREAM_AHEAD) (rd0 s (fldAt UMR_STREAM_SLOTS reel 8) - 1)
  stage ≤ d || (reelMicros s reel).any fun m => hasRun s reel (stage - d - 1) m

/-- A prefetch copies the stage's weights into its slot when its point has come and the slot is released; it waits while a block of them is
under repair (R259). -/
def prefetch (s : State) (reel stage : Nat) : State :=
  let r := reelOf s reel
  match r.stages[stage]? with
  | none => s
  | some g =>
    let slots := rd0 s (fldAt UMR_STREAM_SLOTS reel 8)
    let n := streamIndex r stage % max slots 1
    if !g.streamed || r.st ≠ .resident || s.frame.phase ≠ .roll || streamHeld s reel n || !prefetchDue s reel stage
        || repairingIn s g.wAddr g.wBytes then s
    else
      let s := uWrite (countRead s g.wAddr g.wBytes) (streamSlotAddr s reel n) (uReadN s g.wAddr g.wBytes)
      { s with streamBuf := mapPut s.streamBuf (streamKey reel stage) (n + 1) }

/-! ### The commands -/

def execEmbed (i : StageIn) (chunks : List ChunkTokens) (s : State) : Out :=
  act s fun s => runStage s i kEmbed onArray (runEmbed chunks)
def execNorm (i : StageIn) (s : State) : Out := act s fun s => runStage s i kNorm onArray runNorm
def execProj (i : StageIn) (s : State) : Out := act s fun s => runStage s i kProj bankStage runProj
def execRope (i : StageIn) (s : State) : Out := act s fun s => runStage s i kRope onArray runRope
def execResid (i : StageIn) (s : State) : Out := act s fun s => runStage s i kResid onArray runResid
def execActStage (i : StageIn) (s : State) : Out := act s fun s => runStage s i kAct onArray runAct
def execRoute (i : StageIn) (s : State) : Out := act s fun s => runStage s i kRoute onArray runRoute
def execExpert (i : StageIn) (s : State) : Out := act s fun s => runStage s i kExpert expertOnBank runExpert
def execCombine (i : StageIn) (s : State) : Out := act s fun s => runStage s i kCombine onArray runCombine
def execLmhead (i : StageIn) (s : State) : Out := act s fun s => runStage s i kLmhead onArray runLmhead
def execStreamPrefetch (reel stage : Nat) (s : State) : Out := act s fun s => prefetch s reel stage

end Sys2Proof.Machine
end

