-- ==== Sys2Proof/Machine/Attention.lean ====
section
/-! DEFINITION. Attention (07): where keys and values lie, visibility, the walk of an engine, and the ATTN stage with MERGE. -/
namespace Sys2Proof.Machine

/-! ### Pairs, pages and slots (R173, R174) -/

def attnOf (j : Job) : AttnP := mapGetD j.reel.attn j.inp.stage attnZero

/-- Pair of KV head `h` of the job's layer. -/
def pairOf (j : Job) (h : Nat) : Nat := attnOrdinal j.reel j.inp.stage * (attnOf j).kvHeads + h

/-- Page that holds a position, with the position's place in it. -/
def pageIndex : List KvPage → Nat → Nat → Option (Nat × Nat)
  | [], _, _ => none
  | p :: ps, n, x => if x < pageLen p then some (n, x) else pageIndex ps (n + 1) (x - pageLen p)

/-- A position's codes and scale of one kind (0 keys, 1 values) as unified addresses: of the codes, of the scale. -/
structure KvAt where
  stack : Nat
  code : Nat
  scale : Nat
  deriving DecidableEq, Repr

/-- Where the keys or values of a position of a pair lie; none where the entry has no such page. -/
def kvAt (s : State) (r : Reel) (x : Entry) (pair pos kind : Nat) : Option KvAt :=
  match pageIndex x.pages 0 pos with
  | none => none
  | some (n, i) =>
    match x.pages[n]? with
    | none => none
    | some p =>
      let o := objOf s p.obj
      let d := headDim r
      let len := pageLen p
      let st := pairStack (splitOf (reelAttn r)) pair n
      let a := o.base + st * (o.size / 32) * 2 ^ 21 + p.rowOff * 1024 + pair / 32 * slotBytes (reelAttn r).hdim len
      some ⟨st, a + kind * len * d + d * i, a + 2 * len * d + kind * 2 * len + 2 * i⟩

/-! ### Writing keys and values (R161, R171) -/

/-- A vector's codes and scale are written. -/
def kvWrite (s : State) (j : Job) (e pair pos kind : Nat) (xs : List F32) : State :=
  match kvAt s j.reel (entryOf s e) pair pos kind with
  | none => s
  | some k =>
    let q := kvQuant (attnOf j).kvFmt xs
    let s := bump0 s STA_NAN_CNT (xs.filter f32IsNan).length
    uWrite (uWrite s k.code (q.1.map (BitVec.ofNat 8 ·))) k.scale (leBytes 2 q.2)

/-- Queries, keys and values of a token, in that order in the stage's input. -/
def qVec (j : Job) (xs : List F32) (head : Nat) : List F32 := (xs.drop (head * headDim j.reel)).take (headDim j.reel)

def kVec (j : Job) (xs : List F32) (kind h : Nat) : List F32 :=
  qVec j xs ((attnOf j).kvHeads * (attnOf j).qGroup + kind * (attnOf j).kvHeads + h)

/-- Every key and value of the micro-batch; a position written costs its engine a clock (R192). -/
def writeKv (s : State) (j : Job) : State :=
  forEach (tokenInputs s j) s fun s t =>
    forEach (List.range (attnOf j).kvHeads) s fun s h =>
      let p := pairOf j h
      let s := kvWrite (kvWrite s j t.1.1 p t.1.2 0 (kVec j t.2 0 h)) j t.1.1 p t.1.2 1 (kVec j t.2 1 h)
      match kvAt s j.reel (entryOf s t.1.1) p t.1.2 0 with
      | some k => bump0 (bump0 s (inst ATN_WR_CNT k.stack) 1) (inst ATN_BUSY_CYC k.stack) 1
      | none => s

/-! ### Visibility (R186) -/

def pageAbsent (x : Entry) (pos : Nat) : Bool :=
  match pageIndex x.pages 0 pos with
  | some (n, _) => ((x.pages[n]?).map (·.absent)).getD true
  | none => true

/-- The query at position `q` sees position `x`. -/
def visible (p : AttnP) (e : Entry) (x q : Nat) : Bool :=
  decide (x < e.lenTent) && !pageAbsent e x
    && !(decide (e.lenCommit ≤ x) && decide (q < x) && !(decide (x < p.pBi) && decide (q < p.pBi)))
    && !(p.window ≠ 0 && decide (x + p.window ≤ q) && decide (p.nsink ≤ x))

/-! ### The walk (R188) -/

def partZero (d : Nat) : Part := ⟨f32Inf true, 0, List.replicate d 0⟩

/-- Value of a code without its scale. -/
def kvDec (fmt c : Nat) : F32 := if fmt = 0 then f32OfInt (signed 8 c) else e4m3Val c

/-- Pairwise sum of the products of a query with key codes. -/
def treeDot (fmt : Nat) (q : List F32) (codes : List Nat) : F32 :=
  pairReduce 8 (List.zipWith (fun a c => f32Mul a (kvDec fmt c)) q codes)

/-- One position for one query row; the flag says that it was skipped. -/
def walkPos (fmt : Nat) (qk : F32) (q : List F32) (kc vc : List Nat) (ks vs : F32) (r : Part) : Part × Bool :=
  let t := if f32Key ks = 0 then 0 else treeDot fmt q kc
  let sc := f32Mul (f32Mul t ks) qk
  if f32IsNan sc || sc = f32Inf true then (r, true)
  else
    let sc := if sc = f32Inf false then 0x7F7FFFFF else sc
    let r := if f32Lt r.m sc then
        let c := exp2K (f32SubOp r.m sc)
        ⟨sc, f32Mul r.l c, r.acc.map fun a => f32Mul a c⟩
      else r
    let w := exp2K (f32SubOp sc r.m)
    let wv := f32Mul w vs
    (⟨r.m, f32Add r.l w, List.zipWith (fun a c => f32Fma wv (kvDec fmt c) a) r.acc vc⟩, false)

/-- A position of a lane as the engine reads it: position, key codes, value codes, scales. -/
structure KvRow where
  pos : Nat
  kc : List Nat
  vc : List Nat
  ks : F32
  vs : F32

def kvRow (s : State) (j : Job) (e pair pos : Nat) : Option KvRow :=
  let x := entryOf s e
  match kvAt s j.reel x pair pos 0, kvAt s j.reel x pair pos 1 with
  | some k, some v =>
    let codes := fun a => (uReadN s a (headDim j.reel)).map (·.toNat)
    some ⟨pos, codes k.code, codes v.code, f32OfF16 (uNat s k.scale 2), f32OfF16 (uNat s v.scale 2)⟩
  | _, _ => none

/-- One query row over the lane's positions in ascending order, with the number skipped. -/
def walkRow (p : AttnP) (x : Entry) (rows : List KvRow) (q : Nat) (qv : List F32) (d : Nat) : Part × Nat :=
  (rows.filter fun r => visible p x r.pos q).foldl (fun a r =>
    let (b, sk) := walkPos p.kvFmt p.qkScale qv r.kc r.vc r.ks r.vs a.1
    (b, a.2 + sk.toNat)) (partZero d, 0)

/-- Positions of a lane that some query position sees. -/
def lanePositions (p : AttnP) (x : Entry) (lane : Nat) (qs : List Nat) : List Nat :=
  (List.range x.lenTent).filter fun pos =>
    (match pageIndex x.pages 0 pos with | some (n, _) => n % splitOf p = lane | none => false) && qs.any (visible p x pos)

def partKey (slot stage e pair lane : Nat) : Nat := (((slot * 16384 + stage) * 8192 + e) * 2 ^ 16 + pair) * 32 + lane

/-- The attention cost table's fixed clocks of a walk (R192, R451). -/
def atnFix (s : State) (p : AttnP) : Nat :=
  match s.cfg.costs.find? (fun c => c.table = 3 && c.key = p.hdim + p.kvFmt * 4 + 16) with
  | some c => c.base + ceilDiv c.per 256
  | none => 32

/-- Query rows of an entry in a micro-batch for one KV head: position and query vector, tokens first, then heads. -/
def queryRows (s : State) (j : Job) (e h : Nat) : List (Nat × List F32) :=
  ((tokenInputs s j).filter (fun t => t.1.1 = e)).flatMap fun t =>
    (List.range (attnOf j).qGroup).map fun g => (t.1.2, qVec j t.2 (h * (attnOf j).qGroup + g))

/-- Where the key or the value that a read names lies. -/
def readAt (s : State) (j : Job) (e pair : Nat) (r : KvRead) : Option KvAt := kvAt s j.reel (entryOf s e) pair r.pos r.val.toNat

/-- An uncorrectable read of the cache: its entry faults, and its row's granule is marked (R193, R235). -/
def walkBad (s : State) (j : Job) (e pair : Nat) (r : KvRead) : State :=
  let s := planFault s e stUncorrected
  match (readAt s j e pair r).map fun k => place s k.code with
  | some (.stack l) => uncorrectableRead s l.key l.row
  | _ => s

/-- A corrected read of the cache (R193, R235). -/
def walkCorr (s : State) (j : Job) (e pair st : Nat) (r : KvRead) : State :=
  let s := bump0 s (inst ATN_ECC_CORR st) 1
  match (readAt s j e pair r).map fun k => place s k.code with
  | some (.stack l) => correctedAt s l.key l.row
  | _ => s

/-- Positions that a walk reads. -/
def walkPositions (s : State) (j : Job) (e h lane : Nat) : List Nat :=
  lanePositions (attnOf j) (entryOf s e) lane ((queryRows s j e h).map (·.1))

/-- The partial results of a walk: positions whose key or value read fails are skipped. -/
def walkRows (s : State) (j : Job) (e h lane : Nat) (bad : List KvRead) : List (Part × Nat) :=
  let rows := ((walkPositions s j e h lane).filter fun q => !bad.any (·.pos = q)).filterMap (kvRow s j e (pairOf j h))
  (queryRows s j e h).map fun q => walkRow (attnOf j) (entryOf s e) rows q.1 q.2 (headDim j.reel)

/-- One walk: a lane of a pair of an entry. Positions whose read meets an uncorrectable error are skipped (R193). -/
def runWalk (s : State) (j : Job) (e h lane : Nat) (bad corr : List KvRead) : State :=
  let p := attnOf j
  let pair := pairOf j h
  let ps := walkPositions s j e h lane
  let badHere := bad.filter fun r => ps.contains r.pos
  let outs := walkRows s j e h lane bad
  let st := pairStack (splitOf p) pair lane
  let passes := ceilDiv outs.length 256
  let s := { s with parts := mapPut s.parts (partKey j.inp.reel j.inp.stage e pair lane) (outs.map (·.1)) }
  let s := bump0 (bump0 s (inst ATN_WALK_CNT st) 1) (inst ATN_POS_CNT st) (passes * ps.length)
  let s := bump0 s (inst ATN_BUSY_CYC st) (passes * (2 * ceilDiv (ps.length * headDim j.reel) 2048 + atnFix s p))
  let s := bump0 s (inst ATN_SKIP_CNT st) (outs.foldl (fun n o => n + o.2) 0)
  let s := wr0 (wr0 s (inst ATN_STS_REEL st) j.inp.reel) (inst ATN_STS_LAYER st) j.g.layer
  let s := forEach (corr.filter fun r => ps.contains r.pos) s fun s r => walkCorr s j e pair st r
  let s := bump0 s (inst ATN_ECC_UNCORR st) badHere.length
  forEach badHere s fun s r => walkBad s j e pair r

/-- The walk has left its partial results. -/
def walked (s : State) (j : Job) (e h lane : Nat) : Bool :=
  (mapGet s.parts (partKey j.inp.reel j.inp.stage e (pairOf j h) lane)).isSome

/-- The keys and values of the micro-batch are written before the cache is read for any of its queries (R171). -/
def kvWritten (s : State) (j : Job) : State :=
  let k := (j.inp.reel, j.inp.stage, j.inp.mb)
  if s.work.kv.contains k then s
  else
    let s := writeKv s j
    { s with work := { s.work with kv := s.work.kv ++ [k] } }

/-! ### MERGE (R189, R191) -/

/-- MERGE's running state: M, L and A. -/
def mergePart (a : Part) (p : Part) : Part :=
  if p.m = f32Inf true then a
  else
    let a := if f32Lt a.m p.m then
        let c := exp2K (f32SubOp a.m p.m)
        ⟨p.m, f32Mul a.l c, a.acc.map fun v => f32Mul v c⟩
      else a
    let e := exp2K (f32SubOp p.m a.m)
    ⟨a.m, f32Fma p.l e a.l, List.zipWith (fun x y => f32Fma x e y) p.acc a.acc⟩

/-- Output of a query row from its lanes' partials, and whether the row was empty. -/
def mergeRow (d : Nat) (ps : List Part) : List F32 × Bool :=
  let a := ps.foldl mergePart (partZero d)
  if a.m = f32Inf true then (List.replicate d 0, true)
  else
    let r := rcpK a.l
    (a.acc.map fun v => f32Mul v r, false)

/-- Query row `n` of a pair of an entry. -/
def rowParts (s : State) (j : Job) (e pair n : Nat) : List Part :=
  (List.range (splitOf (attnOf j))).map fun lane =>
    (mapGetD s.parts (partKey j.inp.reel j.inp.stage e pair lane) []).getD n (partZero (headDim j.reel))

/-- Rows of a token (number `k` among its entry's tokens) for one KV head, merged. -/
def headRows (s : State) (j : Job) (e k h : Nat) : List (List F32 × Bool) :=
  (List.range (attnOf j).qGroup).map fun g =>
    mergeRow (headDim j.reel) (rowParts s j e (pairOf j h) (k * (attnOf j).qGroup + g))

/-- An empty row counts at the lane-0 stack of its pair, and marks its token's position (R191). -/
def noteEmpty (s : State) (j : Job) (t : Nat × Nat) (h : Nat) (rows : List (List F32 × Bool)) : State :=
  let n := (rows.filter (·.2)).length
  if n = 0 then s
  else
    let s := bump0 s (inst ATN_EMPTY_CNT (pairStack (splitOf (attnOf j)) (pairOf j h) 0)) n
    if s.plan.empties.contains t then s else { s with plan := { s.plan with empties := s.plan.empties ++ [t] } }

def mergeTokens (s : State) (j : Job) (ts : List (Nat × Nat)) : State :=
  forEach ts s fun s t =>
    let k := ((ts.filter (fun u => u.1 = t.1)).findIdx (· = t))
    let hs := (List.range (attnOf j).kvHeads).map fun h => headRows s j t.1 k h
    let s := forEach hs.zipIdx s fun s x => noteEmpty s j t x.2 x.1
    actPut s j.inp.reel j.inp.stage t (hs.flatMap fun rows => rows.flatMap (·.1))

/-- Partial results of an entry in the job's stage. -/
def partOf (j : Job) (e k : Nat) : Bool := k / 2 ^ 21 = (j.inp.reel * 16384 + j.inp.stage) * 8192 + e

/-- The ATTN stage: every key and value is written, every lane that no ATTN_WALK has walked is walked, the partials are merged (R171). -/
def runAttn (ue : List CacheUe) (s : State) (j : Job) : State :=
  let ts := (tokenInputs s j).map (·.1)
  let es := (ts.map (·.1)).eraseDups
  let s := kvWritten s j
  let s := forEach es s fun s e =>
    forEach (List.range (attnOf j).kvHeads) s fun s h =>
      let u := ue.filter fun u => u.entry = e && u.pair = pairOf j h
      forEach (List.range (splitOf (attnOf j))) s fun s lane =>
        if walked s j e h lane then s else runWalk s j e h lane (u.flatMap (·.bad)) (u.flatMap (·.corr))
  let s := mergeTokens s j ts
  { s with parts := s.parts.filter fun p => !es.any fun e => partOf j e p.1 }

/-- One walk of the stage, its partials kept for the merge. -/
def runOneWalk (entry pair lane : Nat) (bad corr : List KvRead) (s : State) (j : Job) : State :=
  let h := pair - pairOf j 0
  if pairOf j 0 ≤ pair && h < (attnOf j).kvHeads && lane < splitOf (attnOf j) && j.mb.toks.any (·.1 = entry) && !walked s j entry h lane then
    runWalk (kvWritten s j) j entry h lane bad corr
  else s

/-- The bank of a memory channel in processor mode that holds the engines' accesses to the pages of the micro-batch's entries (R213). -/
def attnHeld (s : State) (j : Job) : Option Nat :=
  if !(List.range 32).any (fun k => rd0 s (inst BNK_MODE_PROC k) ≠ 0) then none
  else ((j.mb.toks.map (·.1)).eraseDups.flatMap fun e => ((entryOf s e).pages.filter (!·.absent)).flatMap (pageRows s)).findSome? fun r =>
    if chanHeld s r.1 then some r.1 else none

/-- The stage runs unless a memory channel holds its accesses. -/
def attnStage (i : StageIn) (ue : List CacheUe) (s : State) : State :=
  match (jobOf s i kAttn).bind (attnHeld s) with
  | some k => hold s k (.attn i ue)
  | none => runStage s i kAttn onArray (runAttn ue)

def attnWalkStage (i : StageIn) (entry pair lane : Nat) (bad corr : List KvRead) (s : State) : State :=
  match jobOf s i kAttn with
  | some j =>
    match attnHeld s j with
    | some k => hold s k (.attnWalk i entry pair lane bad corr)
    | none => runOneWalk entry pair lane bad corr s j
  | none => s

def execAttn (i : StageIn) (ue : List CacheUe) (s : State) : Out := act s (attnStage i ue)

def execAttnWalk (i : StageIn) (entry pair lane : Nat) (bad corr : List KvRead) (s : State) : Out :=
  act s (attnWalkStage i entry pair lane bad corr)

end Sys2Proof.Machine
end

