-- ==== Sys2Proof/Machine/Codec.lean ====
section
/-! DEFINITION. The formats of the expanders and compressors (12): factored blocks (R317 to R322) and coded-tensor streams (R323 to
R329), as functions of bytes. -/
namespace Sys2Proof.Machine

/-! ### Bits of bytes, least significant first -/

def byteBits (b : Byte) : List Bool := (List.range 8).map fun i => bit b.toNat i

def bytesBits (bs : Bytes) : List Bool := bs.flatMap byteBits

def bitsNat : List Bool → Nat
  | [] => 0
  | b :: bs => b.toNat + 2 * bitsNat bs

def natBits (w v : Nat) : List Bool := (List.range w).map (bit v)

/-- Bytes of a bit string, the last one filled with zeros. -/
def bitsBytes : Nat → List Bool → Bytes
  | 0, _ => []
  | n + 1, bs => BitVec.ofNat 8 (bitsNat (bs.take 8)) :: bitsBytes n (bs.drop 8)

def packBits (bs : List Bool) : Bytes := bitsBytes (ceilDiv bs.length 8) bs

def at16 (bs : Bytes) (a : Nat) : Nat := leNat ((bs.drop a).take 2)

def slice (bs : Bytes) (a n : Nat) : Bytes := (bs.drop a).take n

def allZero (bs : Bytes) : Bool := bs.all (· == 0)

def up16 (n : Nat) : Nat := 16 * ceilDiv n 16

/-! ### Outcomes of blocks (R331 to R333) -/

/-- What a block gives: its output, or its failure with the bytes that are zero-filled; `next`: bytes to the next block, none when
the stream ends. -/
structure BlockOut where
  out : Bytes
  fail : Option Nat
  next : Option Nat
  /-- The compressor wrote it RAW, and NaN values that it met. -/
  raw : Bool := false
  nans : Nat := 0

/-- The running outcome of a descriptor. -/
structure CodecOut where
  out : Bytes
  status : Nat
  damaged : Nat
  firstBad : Option Nat
  halted : Bool
  stale : Nat
  blockBad : Nat
  uncorr : Nat
  raws : Nat
  nans : Nat
  ended : Bool
  /-- Source bytes read. -/
  used : Nat
  deriving DecidableEq, Repr

def codecZero : CodecOut := ⟨[], stOk, 0, none, false, 0, 0, 0, 0, 0, false, 0⟩

/-- A failing block or unit number `n` (R333). -/
def noteFail (r : CodecOut) (n st : Nat) (stop : Bool) : CodecOut :=
  { r with
    status := if r.status = stOk then st else r.status
    damaged := r.damaged + 1, firstBad := some (r.firstBad.getD n)
    halted := stop, ended := r.ended || stop
    stale := r.stale + (decide (st = stStale)).toNat, blockBad := r.blockBad + (decide (st = stDamaged)).toNat
    uncorr := r.uncorr + (decide (st = stUncorrected)).toNat }

/-- Some 64-byte source unit of the range failed. -/
def unitsBad (bad : List Nat) (a n : Nat) : Bool := bad.any fun u => 64 * u < a + n && a < 64 * u + 64

/-- Blocks `n` to `cnt - 1` from source byte `a` on. A block that would pass `room` is damaged and ends the stream (R332). -/
def runBlocks (f : Nat → Nat → BlockOut) (cnt room : Nat) (stop : Bool) : Nat → Nat → Nat → CodecOut → CodecOut
  | 0, _, _, r => r
  | fuel + 1, n, a, r =>
    if cnt ≤ n || r.ended then r
    else
      let b := f n a
      let tooLong := room < r.out.length + b.out.length
      let fail := if tooLong then some (b.fail.getD stDamaged) else b.fail
      let zeros := List.replicate (min b.out.length (room - r.out.length)) (0 : Byte)
      let r := { r with out := r.out ++ (if fail.isSome then zeros else b.out), raws := r.raws + (b.raw && fail.isNone).toNat
                        nans := r.nans + b.nans, used := a + b.next.getD 16 }
      let r := match fail with | some st => noteFail r n st stop | none => r
      match b.next with
      | none => { r with ended := true }
      | some k => if tooLong then { r with ended := true } else runBlocks f cnt room stop fuel (n + 1) (a + k) r

/-- The rest of the destination of an expansion is zero-filled unless STOP_ON_ERR ended it; a stream that fills too little reports
BLOCK_DAMAGED at BLOCK_CNT (R332). -/
def fillRest (cnt room : Nat) (r : CodecOut) : CodecOut :=
  if r.halted || room ≤ r.out.length then r
  else
    let short := !r.ended && r.status = stOk
    { r with out := r.out ++ List.replicate (room - r.out.length) 0
             status := if short then stDamaged else r.status
             firstBad := if short then some cnt else r.firstBad }

/-! ### Factored blocks (R317 to R321) -/

structure FbHead where
  kind : Nat
  codeW : Nat
  rank : Nat
  deq : Bool
  h : Nat
  clen : Nat
  rsv : Bool

def fbHead (bs : Bytes) : FbHead :=
  let w := leNat (bs.take 4)
  { kind := bits w 0 2, codeW := bits w 2 3, rank := bits w 5 3, deq := bit w 8, h := bits w 9 7 + 1, clen := bits w 16 16
    rsv := !allZero (slice bs 4 12) }

/-- Rank r of its code. -/
def rankOf (c : Nat) : Nat := if c = 0 then 0 else 2 ^ (c - 1)

def scaleArea (deq : Bool) (h : Nat) : Nat := if deq then 16 * ceilDiv h 8 else 0

def rawLen (deq : Bool) (h b : Nat) : Nat := 16 + scaleArea deq h + 16 * h * b

/-- One symbol of a lane: its zigzag value and the bits after it (R319). -/
def takeSymbol (b k : Nat) (bs : List Bool) : Option (Nat × List Bool) :=
  let q := (bs.take 8).takeWhile id |>.length
  if q < 8 then
    if bs.length < q + 1 + k then none
    else some (q * 2 ^ k + bitsNat ((bs.drop (q + 1)).take k), bs.drop (q + 1 + k))
  else
    if bs.length < 8 + b then none
    else
      let zz := bitsNat ((bs.drop 8).take b)
      if zz / 2 ^ k < 8 then none else some (zz, bs.drop (8 + b))

/-- The symbols of a lane: exactly `n`, using every bit. -/
def laneSymbols (b k : Nat) : Nat → List Bool → Option (List Nat)
  | 0, bs => if bs = [] then some [] else none
  | n + 1, bs =>
    match takeSymbol b k bs with
    | none => none
    | some (zz, rest) => if 2 ^ b ≤ zz then none else (laneSymbols b k n rest).map (zz :: ·)

def unzigzag (zz : Nat) : Int := if zz % 2 = 0 then (zz / 2 : Nat) else -((zz / 2 : Nat) : Int) - 1

/-- Lanes from `l` on, as their symbol lists. -/
def fbLanes (b h : Nat) (tbl : Bytes) : Nat → Nat → List Bool → Option (List (List Nat))
  | 0, _, _ => some []
  | n + 1, l, body =>
    let e := at16 tbl (2 * l)
    let k := e / 2 ^ 13
    let len := e % 2 ^ 13
    if b ≤ k || body.length < len then none
    else
      match laneSymbols b k (2 * h) (body.take len) with
      | none => none
      | some ys => (fbLanes b h tbl n (l + 1) (body.drop len)).map (ys :: ·)

/-- The codes of a FACTORED block, row by row. `blk` is the block, `fat` where its factors begin. -/
def fbCodes (blk : Bytes) (b h r fat lat : Nat) : Option (List Nat) :=
  let u := fun i j => signed 8 (leNat (slice blk (fat + i * r + j) 1))
  let v := fun j c => signed 8 (leNat (slice blk (fat + h * r + 128 * j + c) 1))
  (fbLanes b h (slice blk lat 128) 64 0 (bytesBits (blk.drop (lat + 128)))).map fun lanes =>
    (List.range h).flatMap fun i => (List.range 128).map fun c =>
      let zz := ((lanes.getD (c / 2) []).getD (2 * i + c % 2) 0)
      let p := (List.range r).foldl (fun (p : Int) j => p + u i j * v j c) 0
      twos b (p + unzigzag zz)

/-- Bits of all lanes. -/
def laneTotal (tbl : Bytes) : Nat := (List.range 64).foldl (fun n l => n + at16 tbl (2 * l) % 2 ^ 13) 0

/-- A row scale is negative, infinite or NaN. -/
def scaleBad (s : Nat) : Bool := (bit s 15 && s ≠ 0x8000) || bits s 10 5 = 31

/-- Codes of a block as bytes of R144. -/
def codesBytes (b : Nat) (cs : List Nat) : Bytes := packBits (cs.flatMap (natBits b))

/-- Codes that bytes of R144 hold. -/
def bytesCodes (b n : Nat) (bs : Bytes) : List Nat :=
  let xs := bytesBits bs
  (List.range n).map fun i => bitsNat ((xs.drop (b * i)).take b)

/-- What EXPAND_FB writes for a block of codes. -/
def fbOutput (f32 : Bool) (b h : Nat) (scales : List Nat) (cs : List Nat) : Bytes :=
  if f32 then
    cs.zipIdx.flatMap fun c =>
      let s := scales.getD (c.2 / 128) 0
      leBytes 4 (if s = 0 then 0 else f32Mul (f32OfInt (signed 8 c.1)) (f32OfF16 s)).toNat
  else codesBytes b (cs.take (128 * h))

/-- The codes of an undamaged block (R320); `pad` is what follows it up to the next multiple of 16. -/
def fbDecode (blk pad : Bytes) (hd : FbHead) : Option (List Nat) :=
  let b := codeWidth hd.codeW
  let sb := scaleArea hd.deq hd.h
  let scales := (List.range hd.h).map fun i => at16 blk (16 + 2 * i)
  if hd.rsv || 2 ≤ hd.kind || 5 ≤ hd.rank || (hd.deq && hd.codeW ≠ 5) || !allZero pad
      || (hd.deq && (scales.any scaleBad || !allZero (slice blk (16 + 2 * hd.h) (sb - 2 * hd.h)))) then none
  else if hd.kind = 0 then
    if hd.clen ≠ rawLen hd.deq hd.h b then none else some (bytesCodes b (128 * hd.h) (blk.drop (16 + sb)))
  else
    let r := rankOf hd.rank
    let fb := up16 (hd.h * r + 128 * r)
    let lat := 16 + sb + fb
    let total := laneTotal (slice blk lat 128)
    if hd.clen < lat + 128 || rawLen hd.deq hd.h b < hd.clen || hd.clen ≠ lat + 128 + ceilDiv total 8
        || !allZero (slice blk (16 + sb + hd.h * r + 128 * r) (fb - (hd.h * r + 128 * r)))
        || ((bytesBits (blk.drop (lat + 128))).drop total).any id then none
    else fbCodes blk b hd.h r (16 + sb) lat

/-- Block `n` of an EXPAND_FB at source byte `a`. A header in a failed unit leaves the length undefined. -/
def fbBlock (src : Bytes) (bad : List Nat) (off : Nat) (f32 : Bool) (_n a : Nat) : BlockOut :=
  let bs := src.drop a
  let hd := fbHead bs
  if 16 ≤ bs.length && unitsBad bad (off + a) 16 then ⟨[], some stUncorrected, none, false, 0⟩
  else if bs.length < 16 || 6 ≤ hd.codeW || hd.clen < 16 then ⟨[], some stDamaged, none, false, 0⟩
  else if bs.length < hd.clen then ⟨[], some stDamaged, none, false, 0⟩
  else
    let b := codeWidth hd.codeW
    let zeros := List.replicate (if f32 then 512 * hd.h else 16 * hd.h * b) (0 : Byte)
    let next := some (up16 hd.clen)
    if unitsBad bad (off + a) hd.clen then ⟨zeros, some stUncorrected, next, false, 0⟩
    else
      let blk := bs.take hd.clen
      let codes := if f32 && !hd.deq then none else fbDecode blk (slice bs hd.clen (up16 hd.clen - hd.clen)) hd
      match codes with
      | none => ⟨zeros, some stDamaged, next, false, 0⟩
      | some cs => ⟨fbOutput f32 b hd.h ((List.range hd.h).map fun i => at16 blk (16 + 2 * i)) cs, none, next, false, 0⟩

def expandFb (src : Bytes) (bad : List Nat) (off : Nat) (f32 stop : Bool) (cnt room : Nat) : CodecOut :=
  fillRest cnt room (runBlocks (fbBlock src bad off f32) cnt room stop cnt 0 0 codecZero)

/-! ### The compressor (R322) -/

def zigzag (v : Int) : Nat := if 0 ≤ v then 2 * v.toNat else 2 * (-v).toNat - 1

def symLen (zz k b : Nat) : Nat := if zz / 2 ^ k < 8 then zz / 2 ^ k + 1 + k else 8 + b

def symBits (zz k b : Nat) : List Bool :=
  if zz / 2 ^ k < 8 then List.replicate (zz / 2 ^ k) true ++ false :: natBits k zz
  else List.replicate 8 true ++ natBits b zz

/-- The Rice parameter with the least sum of lengths, the lowest at a tie. -/
def bestK (b : Nat) (zs : List Nat) : Nat :=
  let cost := fun k => zs.foldl (fun n z => n + symLen z k b) 0
  (List.range (min 7 (b - 1) + 1)).foldl (fun m k => if cost k < cost m then k else m) 0

/-- The bytes of one compressed block of codes, with its row scales when DEQ. -/
def compressBlock (cw h : Nat) (deq : Bool) (scales codes : List Nat) : Bytes × Bool :=
  let b := codeWidth cw
  let zs := codes.map fun c => zigzag (signed b c)
  let lanes := (List.range 64).map fun l =>
    (List.range (2 * h)).map fun i => zs.getD (128 * (i / 2) + 2 * l + i % 2) 0
  let ks := lanes.map (bestK b)
  let bodies := (lanes.zip ks).map fun x => x.1.flatMap fun z => symBits z x.2 b
  let sa := leNat (scales.flatMap (leBytes 2))
  let sBytes := if deq then leBytes (scaleArea true h) sa else []
  let fac := 16 + sBytes.length + 128 + ceilDiv ((bodies.map List.length).foldl (· + ·) 0) 8
  let raw := rawLen deq h b
  let isRaw := raw ≤ fac
  let hd := fun clen kind => leBytes 4 (kind + cw * 4 + deq.toNat * 2 ^ 8 + (h - 1) * 2 ^ 9 + clen * 2 ^ 16) ++ List.replicate 12 (0 : Byte)
  let blk := if isRaw then hd raw 0 ++ sBytes ++ codesBytes b codes
    else hd fac 1 ++ sBytes ++ ((bodies.zip ks).flatMap fun x => leBytes 2 (x.1.length + x.2 * 2 ^ 13)) ++ packBits bodies.flatten
  (blk ++ List.replicate (up16 blk.length - blk.length) 0, isRaw)

/-- Rows of input block `n`. -/
def cmpRows (cnt lastM1 n : Nat) : Nat := if n + 1 = cnt then lastM1 + 1 else 128

/-- Input bytes of a block of `h` rows. -/
def cmpIn (f32 : Bool) (b h : Nat) : Nat := if f32 then 512 * h else 16 * h * b

def f32At (bs : Bytes) (i : Nat) : F32 := BitVec.ofNat 32 (leNat (slice bs (4 * i) 4))

def cmpBlock (src : Bytes) (bad : List Nat) (off : Nat) (f32 : Bool) (cw cnt lastM1 n a : Nat) : BlockOut :=
  let b := codeWidth cw
  let h := cmpRows cnt lastM1 n
  let len := cmpIn f32 b h
  let bs := slice src a len
  if unitsBad bad (off + a) len then ⟨List.replicate (up16 (rawLen f32 h b)) 0, some stUncorrected, some len, false, 0⟩
  else if f32 then
    let rows := (List.range h).map fun i => (List.range 128).map fun c => f32At bs (128 * i + c)
    let qs := rows.map (kvQuant 0)
    let x := compressBlock cw h true (qs.map (·.2)) (qs.flatMap (·.1))
    ⟨x.1, none, some len, x.2, (rows.map fun r => (r.filter f32IsNan).length).foldl (· + ·) 0⟩
  else
    let x := compressBlock cw h false [] (bytesCodes b (128 * h) bs)
    ⟨x.1, none, some len, x.2, 0⟩

def compressAll (src : Bytes) (bad : List Nat) (off : Nat) (f32 : Bool) (cw lastM1 : Nat) (stop : Bool) (cnt room : Nat) : CodecOut :=
  runBlocks (cmpBlock src bad off f32 cw cnt lastM1) cnt room stop cnt 0 0 codecZero

/-! ### Coded-tensor streams (R323 to R329) -/

/-- Symbols of length `l` in ascending value. -/
def symsOf (lens : List Nat) (l : Nat) : List Nat := (lens.zipIdx.filter (fun x => x.1 = l)).map (·.2)

/-- Reads codeword bits until a symbol is complete: `first` is the first code of length `l`, `code` the bits read (R325). -/
def ctSymbol (lens : List Nat) : Nat → Nat → Nat → Nat → List Bool → Option (Nat × List Bool)
  | 0, _, _, _, _ => none
  | _, _, _, _, [] => none
  | fuel + 1, l, first, code, b :: bs =>
    let code := 2 * code + b.toNat
    let syms := symsOf lens l
    if first ≤ code && code < first + syms.length then some (syms.getD (code - first) 0, bs)
    else ctSymbol lens fuel (l + 1) (2 * (first + syms.length)) code bs

/-- Exactly `n` symbols, using every bit. -/
def ctSymbols (lens : List Nat) : Nat → List Bool → Option (List Nat)
  | 0, bs => if bs = [] then some [] else none
  | n + 1, bs =>
    match ctSymbol lens 16 1 0 0 bs with
    | none => none
    | some (v, rest) => (ctSymbols lens n rest).map (v :: ·)

/-- Lanes `i` to 15 of a CODED block of `n` values. -/
def ctLanes (lens : List Nat) (n : Nat) (laneBits : List Nat) : Nat → Nat → List Bool → Option (List (List Nat))
  | 0, _, _ => some []
  | fuel + 1, i, body =>
    let len := laneBits.getD i 0
    if body.length < len then none
    else
      match ctSymbols lens (ceilDiv (n - i) 16) (body.take len) with
      | none => none
      | some ys => (ctLanes lens n laneBits fuel (i + 1) (body.drop len)).map (ys :: ·)

/-- Block of a coded-tensor stream; `table slot gen` is the slot's table if it serves the block (R328). A VALUES_M1 above 4,095 lies beyond
its range, and the block is damaged (log entry 104). -/
def ctBlock (src : Bytes) (bad : List Nat) (off : Nat) (table : Nat → Nat → Option (List Nat)) (_n a : Nat) : BlockOut :=
  let bs := src.drop a
  let w := leNat (bs.take 8)
  let n := bits w 16 13 + 1
  let clen := bits w 32 16
  let mode := bits w 12 2
  let laneBits := (List.range 16).map fun i => at16 bs (8 + 2 * i)
  let total := laneBits.foldl (· + ·) 0
  if 40 ≤ bs.length && unitsBad bad (off + a) 40 then ⟨[], some stUncorrected, none, false, 0⟩
  else if bs.length < 40 || clen < 40 || bs.length < clen then ⟨[], some stDamaged, none, false, 0⟩
  else
    let zeros := List.replicate n (0 : Byte)
    let next := some (8 * ceilDiv clen 8)
    let rsv := bits w 14 2 ≠ 0 || bits w 29 3 ≠ 0 || bits w 48 16 ≠ 0
    let body := slice bs 40 (clen - 40)
    if unitsBad bad (off + a) clen then ⟨zeros, some stUncorrected, next, false, 0⟩
    else if rsv || 4096 < n || 2 ≤ mode || (mode = 1 && (clen ≠ 40 + n || total ≠ 0))
        || (mode = 0 && (clen ≠ 40 + ceilDiv total 8 || 40 + n < clen)) then ⟨zeros, some stDamaged, next, false, 0⟩
    else if mode = 1 then ⟨body, none, next, false, 0⟩
    else
      match table (bits w 0 4) (bits w 4 8) with
      | none => ⟨zeros, some stStale, next, false, 0⟩
      | some lens =>
        let xs := bytesBits body
        if (xs.drop total).any id then ⟨zeros, some stDamaged, next, false, 0⟩
        else
          match ctLanes lens n laneBits 16 0 (xs.take total) with
          | none => ⟨zeros, some stDamaged, next, false, 0⟩
          | some lanes =>
            ⟨(List.range n).map fun i => BitVec.ofNat 8 ((lanes.getD (i % 16) []).getD (i / 16) 0), none, next, false, 0⟩

/-- The stream header fails its checks (R323). -/
def ctHeadBad (src : Bytes) (room : Nat) : Bool :=
  at16 src 0 ≠ 0x5443 || leNat (slice src 2 1) ≠ 2 || !allZero (slice src 3 5) || leNat (slice src 8 5) ≠ room || src.length < 16

/-- EXPAND_CT. A header in a failed source unit fails as the whole stream does: the destination is zero-filled, and the failure is
UNCORRECTED at unit 0 (R323, R331; log entry 104). -/
def expandCt (src : Bytes) (bad : List Nat) (off : Nat) (table : Nat → Nat → Option (List Nat)) (stop : Bool) (cnt room : Nat) : CodecOut :=
  if 16 ≤ src.length && unitsBad bad off 16 then
    { noteFail codecZero 0 stUncorrected stop with out := List.replicate room 0, ended := true, used := 16 }
  else if ctHeadBad src room then
    { codecZero with out := List.replicate room 0, status := stDamaged, firstBad := some 0, ended := true }
  else fillRest cnt room (runBlocks (ctBlock src bad off table) cnt room stop cnt 0 16 codecZero)

/-! ### COPY (R331) -/

/-- The 64-byte units that failed read as zeros. -/
def copyBytes (bad : List Nat) (off : Nat) (bs : Bytes) : Bytes :=
  bs.zipIdx.map fun b => if bad.contains ((off + b.2) / 64) then 0 else b.1

/-- COPY of `bs`: with STOP_ON_ERR it ends after the first failing unit. -/
def copyAll (bs : Bytes) (bad : List Nat) (off : Nat) (stop : Bool) : CodecOut :=
  let units := (List.range (ceilDiv (off + bs.length) 64)).filter bad.contains
  match units with
  | [] => { codecZero with out := bs, used := bs.length }
  | u :: _ =>
    if stop then { noteFail codecZero u stUncorrected true with out := copyBytes bad off (bs.take (64 * (u + 1) - off)), used := 64 * (u + 1) - off }
    else { (units.foldl (fun r u => noteFail r u stUncorrected false) codecZero) with out := copyBytes bad off bs, used := bs.length }

end Sys2Proof.Machine
end

