-- ==== Sys2Proof/Machine/Dma.lean ====
section
/-! DEFINITION. The DMA engines (12): descriptor queues, the checks of a descriptor (R312 to R315), COPY, EXPAND and COMPRESS, copies with a
peer (R365), and TABLE_LOAD (R326, R327). -/
namespace Sys2Proof.Machine

/-! ### Queues (R308 to R311) -/

/-- A queue has a descriptor that its engine may start (R309). -/
def xqReady (s : State) (fn q : Nat) : Bool :=
  rd s fn (xqFld XPD_Q_EN q) = 1 && rd s fn (xqFld XPD_Q_HALTED q) = 0 && canWrite s fn
    && rd s fn (xqFld XPD_Q_HEAD q) ≠ mapGetD s.xqLatched (xqKey fn q) 0

/-- The queue that an engine takes its next descriptor from: round-robin in ascending function and queue (R309). -/
def rrPick (s : State) (engine : Nat) : Option Nat :=
  ((List.range 256).map fun i => (mapGetD s.rrNext engine 0 + i) % 256).find? fun k =>
    xqEngineOf s (k / 8) (k % 8) = engine && xqReady s (k / 8) (k % 8)

/-- The engine is enabled and runs no other descriptor (R306, R435). -/
def engineFree (s : State) (engine : Nat) : Bool :=
  rd0 s (hdr BLK_ENABLE (0x20000 + 0x1000 * engine)) = 1 && !s.xfers.any (·.engine = engine)
    && !s.apertureQ.any fun c => (dmaOf c).any fun i => xqEngineOf s i.fn i.queue = engine

/-- The previous descriptor of the queue has completed. -/
def queueFree (s : State) (fn q : Nat) : Bool :=
  !s.xfers.any (fun x => x.fn = fn && x.queue = q) && !s.apertureQ.any fun c => (dmaOf c).any fun i => i.fn = fn && i.queue = q

def dmaStarts (s : State) (fn q : Nat) : Bool :=
  fn < 32 && q < 8 && engineFree s (xqEngineOf s fn q) && queueFree s fn q
    && rrPick s (xqEngineOf s fn q) = some (xqKey fn q)

/-- The engine's next turn begins after this queue. -/
def takeTurn (s : State) (fn q : Nat) : State :=
  { s with rrNext := mapSet 0 s.rrNext (xqEngineOf s fn q) ((xqKey fn q + 1) % 256) }

/-! ### Checks (R312 to R315) -/

/-- Reserved values and fields that the OP does not use (R314). -/
def descForm (d : DmaDesc) : Bool :=
  let op := d.op.toNat
  let peerUsed := d.srcSpace = 2 || d.dstSpace = 2
  d.devBits || op = 0 || 4 < op || d.srcSpace = 3 || d.dstSpace = 3 || (peerUsed && op ≠ 1)
    || (op = 1 && d.blockCnt ≠ 0) || ((op = 1 || op = 3) && d.f32) || (op ≠ 4 && (d.cwidth ≠ 0 || d.lastRowsM1 ≠ 0))
    || (!peerUsed && d.peer ≠ 0) || (op = 4 && (6 ≤ d.cwidth.toNat || (d.f32 && d.cwidth ≠ 5)))
    || (d.srcSpace ≠ 0 && wideBits d.srcAddr.toNat) || (d.dstSpace ≠ 0 && wideBits d.dstAddr.toNat)

/-- Sum over the input blocks of a COMPRESS. -/
def overBlocks (d : DmaDesc) (f : Nat → Nat) : Nat :=
  (d.blockCnt.toNat - 1) * f 128 + f (d.lastRowsM1.toNat + 1)

def compressExtent (d : DmaDesc) : Bool :=
  let b := codeWidth d.cwidth.toNat
  d.blockCnt ≠ 0 && ((d.srcLen ≠ 0 && d.srcLen.toNat < overBlocks d (cmpIn d.f32 b))
    || (d.dstLen ≠ 0 && d.dstLen.toNat < overBlocks d fun h => up16 (rawLen d.f32 h b)))

def noChecks : Checks := {}

/-- A side of a descriptor: its range in the unified range. A length of zero is held against nothing, the address is judged (R12). -/
def judgeSide (s : State) (fn space addr len : Nat) (source : Bool) : Checks :=
  if space = 1 then judge s fn addr len source else noChecks

/-- A tenant of a device without a torus key has no link key for a peer (R416). -/
def descChecks (s : State) (fn : Nat) (raw : DmaDesc) : Checks :=
  let d := ownPeer s raw
  let objs := descObjs s d
  let peerUsed := d.srcSpace = 2 || d.dstSpace = 2
  let k : Checks :=
    { denied := unbound s fn || (fn = 0 && confidential s && objs.any fun o => !(objOf s o).shared)
      key := (descSlot s fn d).any fun k => slotBad s k || (peerUsed && !flag s KEY_TORUS_HELD)
      badState := objs.any fun o => (objOf s o).st = .unmapping
      badField := descForm raw
      limit := 2 ^ 36 < d.srcLen.toNat || 2 ^ 36 < d.dstLen.toNat || 4194304 < d.blockCnt.toNat
      extent := (d.op = 1 && d.dstLen.toNat < d.srcLen.toNat) || (d.op = 4 && compressExtent d)
        || (peerUsed && (devices s).length ≤ d.peer.toNat) }
  bothChecks k (bothChecks (judgeSide s fn d.srcSpace.toNat d.srcAddr.toNat d.srcLen.toNat true)
    (judgeSide s fn d.dstSpace.toNat d.dstAddr.toNat d.dstLen.toNat false))

/-- A side of the descriptor names a unified address that the function may not name there (R281). -/
def descNames (s : State) (fn : Nat) (raw : DmaDesc) : Bool :=
  let d := ownPeer s raw
  (judgeSide s fn d.srcSpace.toNat d.srcAddr.toNat d.srcLen.toNat true).denied
    || (judgeSide s fn d.dstSpace.toNat d.dstAddr.toNat d.dstLen.toNat false).denied

/-- A length or count that the OP uses is 0 (R315). -/
def descEmpty (d : DmaDesc) : Bool :=
  if d.op = 1 then d.srcLen = 0 else d.srcLen = 0 || d.dstLen = 0 || d.blockCnt = 0

/-! ### Running a descriptor -/

/-- The source bytes; bytes that host memory did not return read as zeros of failed units. -/
def sourceBytes (s : State) (i : DmaIn) (d : DmaDesc) : Bytes :=
  let n := d.srcLen.toNat
  if d.srcSpace = 1 then uReadN s d.srcAddr.toNat n
  else i.hostData.take n ++ List.replicate (n - i.hostData.length) 0

/-- Where the source begins in its first 64-byte unit: a codeword of the unified range, or 64 bytes of host memory (R331). -/
def unitOff (d : DmaDesc) : Nat := if d.srcSpace = 1 then d.srcAddr.toNat % 64 else 0

/-- The 64-byte source units that fail (R331). -/
def failedUnits (s : State) (i : DmaIn) (d : DmaDesc) : List Nat :=
  if d.srcSpace = 1 then i.bad.filter fun u => canFail s (d.srcAddr.toNat - unitOff d + 64 * u)
  else i.bad ++ upto (i.hostData.length / 64) (ceilDiv d.srcLen.toNat 64 - i.hostData.length / 64)

/-- The table that serves a block: the slot is LOADED, its GEN agrees, and the descriptor's tenant owns it (R328). -/
def slotTable (s : State) (fn engine slot gen : Nat) : Option (List Nat) :=
  let t := mapGetD s.tblSlots (tblKey (engine / 4) slot) tblZero
  let owner := if fn = 0 then 32 else (tenantOf s fn).getD 63
  if t.loaded && t.gen = gen && rd0 s (slotOwnFld (engine / 4) slot) = owner then some t.lens else none

/-- Output and outcome of a descriptor's OP. -/
def runOp (s : State) (i : DmaIn) (engine : Nat) (d : DmaDesc) : CodecOut :=
  let src := sourceBytes s i d
  let bad := failedUnits s i d
  let off := unitOff d
  let cnt := d.blockCnt.toNat
  let room := d.dstLen.toNat
  if d.op = 1 then copyAll src bad off d.stopOnErr
  else if d.op = 2 then expandFb src bad off d.f32 d.stopOnErr cnt room
  else if d.op = 3 then expandCt src bad off (slotTable s i.fn engine) d.stopOnErr cnt room
  else compressAll src bad off d.f32 d.cwidth.toNat d.lastRowsM1.toNat d.stopOnErr cnt room

/-- The source has been read: counters, and the rows and board granules whose read failed. -/
def chargeSource (s : State) (i : DmaIn) (engine : Nat) (d : DmaDesc) (n : Nat) : State :=
  let s := bump0 s (inst DMA_IN_B engine) n
  if d.srcSpace = 1 then
    let bad := (failedUnits s i d).filter fun u => 64 * u < n + unitOff d
    let s := forEach bad (countRead s d.srcAddr.toNat n) fun s u => readError s (d.srcAddr.toNat - unitOff d + 64 * u)
    forEach (i.corr.filter fun u => 64 * u < n + unitOff d) s fun s u => readCorrected s (d.srcAddr.toNat - unitOff d + 64 * u)
  else s

/-- Bytes land at a destination of this device or of the host. -/
def putBytes (s : State) (fn engine space addr : Nat) (bs : Bytes) : State :=
  let s := bump0 s (inst DMA_OUT_B engine) bs.length
  if space = 0 then hostWrite s fn addr bs else putUnified s addr bs

/-- Counters of an outcome, and HALTED (R333). -/
def chargeOutcome (s : State) (fn q engine : Nat) (r : CodecOut) : State :=
  let s := bump0 (bump0 s (inst DMA_DAMAGED_CNT engine) r.blockBad) (inst DMA_STALE_CNT engine) r.stale
  let s := bump0 (bump0 s (inst DMA_UNCORR_CNT engine) r.uncorr) (inst DMA_RAW_CNT engine) r.raws
  let s := bump0 (bump0 s (inst DMA_CMP_NAN engine) r.nans) STA_NAN_CNT r.nans
  if r.halted then wr s fn (xqFld XPD_Q_HALTED q) 1 else s

/-- A descriptor without a peer runs to its end. -/
def runLocal (s : State) (i : DmaIn) (engine : Nat) (d : DmaDesc) : State :=
  let r := runOp s i engine d
  let s := chargeSource s i engine d (min r.used d.srcLen.toNat)
  let s := putBytes s i.fn engine d.dstSpace.toNat d.dstAddr.toNat r.out
  let s := chargeOutcome s i.fn i.queue engine r
  finishDesc s i.fn i.queue engine i.desc
    { status := r.status, damaged := r.damaged, firstBad := r.firstBad, outLen := r.out.length }

/-- The CHECK of a peer transfer: the whole remote range, and which way the bytes go (log entry 31). -/
def sendCheck (s : State) (x : PeerXfer) (remote len : Nat) : State :=
  originate s (bulk s x 4 remote 0 true (leBytes 8 len ++ leBytes 1 x.write.toNat))

/-- A COPY with a peer begins with one CHECK (R365). A source here is read at once. -/
def beginPeer (s : State) (i : DmaIn) (engine : Nat) (d : DmaDesc) : State :=
  let write := decide (d.dstSpace = 2)
  let r := if write then copyAll (sourceBytes s i d) (failedUnits s i d) (unitOff d) d.stopOnErr else codecZero
  let s := if write then chargeSource s i engine d (min r.used d.srcLen.toNat) else s
  let s := bump0 s (inst DMA_UNCORR_CNT engine) r.uncorr
  let x : PeerXfer :=
    { engine := engine, fn := i.fn, queue := i.queue, desc := d, write := write, data := r.out, waiting := true, pieces := []
      status := r.status, damaged := r.damaged, firstBad := r.firstBad }
  let s := engineBusy { s with xfers := s.xfers ++ [x] } engine i.fn i.queue 1
  sendCheck s x (if write then d.dstAddr else d.srcAddr).toNat d.srcLen.toNat

/-- The bank of a memory channel in processor mode that a descriptor's source or destination reaches (R213, R316). -/
def descHeld (s : State) (d : DmaDesc) : Option Nat :=
  match (if d.srcSpace = 1 then rangeHeld s d.srcAddr.toNat d.srcLen.toNat else none) with
  | some k => some k
  | none => if d.dstSpace = 1 then rangeHeld s d.dstAddr.toNat d.dstLen.toNat else none

/-- The command that runs a descriptor. -/
def dmaCmd (i : DmaIn) : Instr :=
  match i.desc.op.toNat with
  | 1 => .copy i
  | 2 => .expandFb i
  | 3 => .expandCt i
  | _ => .compress i

/-- A held descriptor runs once no memory channel holds it. -/
def resumeDesc (s : State) (i : DmaIn) : State :=
  let e := xqEngineOf s i.fn i.queue
  runLocal (engineIdle s e) i e (ownPeer s i.desc)

/-- An engine starts a descriptor (R309, R314, R315). -/
def startDesc (s : State) (i : DmaIn) : State :=
  let engine := xqEngineOf s i.fn i.queue
  let s := takeTurn s i.fn i.queue
  match refusal (descChecks s i.fn i.desc) with
  | some st =>
    let s := if descNames s i.fn i.desc then bump0 s UMR_DENY_CNT 1 else s
    finishDesc s i.fn i.queue engine i.desc { status := st }
  | none =>
    let d := ownPeer s i.desc
    if descEmpty d then finishDesc s i.fn i.queue engine i.desc { status := stOk }
    else if d.srcSpace = 2 || d.dstSpace = 2 then beginPeer s i engine d
    else
      match descHeld s d with
      | some k => engineBusy (hold s k (dmaCmd i)) engine i.fn i.queue d.op.toNat
      | none => runLocal s i engine d

/-- The row of the table that names this OP runs; a reserved OP is refused whichever row brings it. -/
def startOp (s : State) (i : DmaIn) (op : Nat) : State :=
  if dmaStarts s i.fn i.queue && (i.desc.op.toNat = op || i.desc.op = 0 || 4 < i.desc.op.toNat) then startDesc s i else s

/-! ### A failed descriptor read (R517) -/

def fetchFails (s : State) (fn q : Nat) : State :=
  let s := takeTurn s fn q
  let s := closeXq (wr s fn (xqFld XPD_Q_EN q) 0) fn q
  raise s { cls := if fn = 0 then clFrame else clTenant, reason := 0x203, type := 0x08, inst := fn
            tenant := if fn = 0 then none else tenantOf s fn }

/-! ### TABLE_LOAD (R326, R327) -/

/-- Sum of 2^(16 - LEN) over the symbols present, in units of 2^-239, in which every length of a byte is whole. -/
def kraft (lens : List Nat) : Nat := (lens.filter (· ≠ 0)).foldl (fun n l => n + 2 ^ (255 - l)) 0

/-- The code is neither complete nor the one of a single symbol (R326); a length above 16 counts in the sum, so that an incomplete
code is refused for it (BAD_FIELD) before the length is (LIMIT, R13). -/
def lensBad (lens : List Nat) : Bool := kraft lens ≠ 2 ^ 255 && lens.filter (· ≠ 0) ≠ [1]

def tableLoadChecks (s : State) (h : CmdHdr) (q slot : Nat) (addr : Nat) : Checks :=
  let owner := rd0 s (slotOwnFld (xqEngineOf s h.fn q / 4) slot)
  { denied := unbound s h.fn || owner ≠ (if h.fn = 0 then 32 else (tenantOf s h.fn).getD 63)
    key := carried s h.fn none
    badState := rd s h.fn (xqFld XPD_Q_EN q) ≠ 1
    badField := h.rsv || addr % 16 ≠ 0 }

def applyTableLoad (h : CmdHdr) (queue : BitVec 3) (slot : BitVec 4) (gen : Byte) (addr : W64) (img : Option TableImage)
    (s : State) (c : CmdId) : State :=
  let q := queue.toNat
  let k := tableLoadChecks s h q slot.toNat addr.toNat
  match img with
  | none => conclude s c ((refusal k).getD stUncorrected)
  | some t =>
    guarded s c { k with badField := k.badField || t.bad || lensBad t.lens || t.lens.length ≠ 256, limit := t.lens.any (16 < ·) }
      fun s => { s with tblLoads := s.tblLoads ++
        [⟨c, q, xqEngineOf s h.fn q / 4, slot.toNat, gen.toNat, t.lens, mapGetD s.xqLatched (xqKey h.fn q) 0⟩] }

/-- Every descriptor below the mark of a load has completed. -/
def loadDue (s : State) (t : TblLoad) : Bool :=
  (rd s t.cmd.fn (xqFld XPD_Q_HEAD t.queue) + 2 ^ 32 - t.mark) % 2 ^ 32 < 2 ^ 31

/-- The oldest load of a queue takes effect and concludes in this frame. -/
def loadTable (s : State) (fn q : Nat) : State :=
  match s.tblLoads.find? fun t => t.cmd.fn = fn && t.queue = q with
  | none => s
  | some t =>
    if loadDue s t then
      let s := { s with tblLoads := s.tblLoads.filter (· ≠ t)
                        tblSlots := mapPut s.tblSlots (tblKey t.group t.slot) ⟨t.gen, true, t.lens⟩ }
      conclude s t.cmd stOk
    else s

/-! ### The commands -/

def execCopy (d : DmaIn) (s : State) : Out := act s fun s => startOp s d 1

def execExpandFb (d : DmaIn) (s : State) : Out := act s fun s => startOp s d 2

def execExpandCt (d : DmaIn) (s : State) : Out := act s fun s => startOp s d 3

def execCompress (d : DmaIn) (s : State) : Out := act s fun s => startOp s d 4

def execDescFetchFail (fn queue : Nat) (s : State) : Out :=
  act s fun s => if dmaStarts s fn queue then fetchFails s fn queue else s

def execTableLoad (h : CmdHdr) (queue : BitVec 3) (slot : BitVec 4) (gen : Byte) (addr : W64) (img : Option TableImage)
    (s : State) : Out :=
  act s fun s => submit s h (.tableLoad h queue slot gen addr img) 0x30 none (applyTableLoad h queue slot gen addr img)

def execTableLoadEffect (fn queue : Nat) (s : State) : Out := act s fun s => loadTable s fn queue

/-- A write of TAIL (R310). -/
def execXpdTailWrite (fn queue : Nat) (tail : W32) (s : State) : Out :=
  act s fun s =>
    if fn < 32 && queue < 8 then
      let f := xqFld XPD_Q_TAIL queue
      if counterOk (rd s fn (xqFld XPD_Q_HEAD queue)) tail.toNat (rd s fn (xqFld XPD_Q_SIZE queue)) then wr s fn f tail.toNat
      else dropWrite s fn 0x7000 stExtent f
    else s

/-- A write of 1 to CTL.RESUME (R333). -/
def execResume (fn queue : Nat) (s : State) : Out :=
  act s fun s => if fn < 32 && queue < 8 then wr s fn (xqFld XPD_Q_HALTED queue) 0 else s

end Sys2Proof.Machine
end

