-- ==== Sys2Proof/Machine/Links.lean ====
section
/-! DEFINITION. Packets that arrive on a port (14): forwarding (R370), peer transfers (R365), REDUCE (R371), failed tags (R373),
revocation messages (R374, R426), and the link layer (R363). -/
namespace Sys2Proof.Machine

/-! ### Arrival -/

/-- Flits arrive: they are counted and acknowledged (R363). -/
def takeFlits (s : State) (port : Nat) (p : Packet) : State :=
  let s := bump0 s (inst LNK_RX_FLITS port) (flitsOf p)
  let x := portOf s port
  let seq := (x.rxSeq + flitsOf p) % 4096
  send (setPort s port { x with rxSeq := seq }) (.ack port seq)

/-- The packet carries data of a tenant whose REVOKE this device has processed (R374). -/
def revoked (s : State) (p : Packet) : Bool := !p.keySel && (revokeOf s p.tenant.toNat).isSome

/-- Sends a packet on by its route (R370). -/
def forward (s : State) (port : Nat) (p : Packet) : State :=
  match routePort s p with
  | none => s
  | some out => putPort (bump0 s (inst LNK_FWD_FLITS out) (flitsOf p)) out { p with dl := nextDl s (some port) p.dl out }

/-- A packet with this OP arrives on an ACTIVE port. -/
def arrive (s : State) (port : Nat) (p : Packet) (op : Nat) (f : State → State) : State :=
  if 4 ≤ port || lnkState s port ≠ lnkActive || p.op.toNat ≠ op then s
  else
    let s := takeFlits s port p
    if revoked s p then bump0 s (inst LNK_RVK_DROP port) 1 else f s

def isMine (s : State) (p : Packet) : Bool := p.dst.toNat = devIndex s

/-- A packet whose tag fails (R373): counted, and on PLANNED the frame fails. -/
def tagFails (s : State) (port : Nat) (p : Packet) : State :=
  let s := bump0 s (inst LNK_AUTH_FAIL port) 1
  if p.tc = 1 then
    failFrame (raise s { cls := clFrame, reason := 0x306, type := 0x21, inst := port, d0 := port + p.src.toNat * 16 })
  else s

/-- A packet for this device, or one to send on. -/
def deliver (s : State) (port : Nat) (p : Packet) (op : Nat) (f : State → State) : State :=
  arrive s port p op fun s => if isMine s p then f s else forward s port p

/-! ### Peer transfers at the acting device (R365) -/

/-- Key of a packet: its tenant's link key, or 32 for the torus key. -/
def packetKey (p : Packet) : Nat := if p.keySel then 32 else p.tenant.toNat

/-- The checks of a peer's range against this device's objects (R281, R314). Without a key slot, the physical function names it. -/
def peerChecks (s : State) (key addr len : Nat) (source : Bool) : Checks :=
  let o := (objAt s addr).map (objOf s)
  let denied :=
    if key = 32 then confidential s && o.any (!·.shared)
    else !o.any fun x => if x.shared then source else x.tenant = key
  { denied := denied
    key := key ≠ 32 && slotBad s key
    badState := o.any (·.st = .unmapping)
    extent := !insideObj s addr len }

/-- Answer to a packet, back to its origin under the same key slot. -/
def answer (p : Packet) (op : Nat) (data : Bytes) : Packet :=
  { control op p.src.toNat data with
    tc := 2, tenant := p.tenant, keySel := p.keySel, enc := op = 3, fin := p.fin, xfer := p.xfer, outAddr := p.outAddr }

def respond (s : State) (p : Packet) (status : Nat) : State := originate s (answer p 5 (leBytes 1 status))

/-- The answer to the FIN of a transfer with failed units: byte 0 the status, bytes 1 to 4 the units that failed, bytes 5 to 8 the first of
them (log entry 31). -/
def respondFin (s : State) (p : Packet) (x : InXfer) : State :=
  if x.failed = 0 then respond s p stOk
  else originate s (answer p 5 (leBytes 1 stUncorrected ++ leBytes 4 x.failed ++ leBytes 4 x.firstBad))

/-- A CHECK: bytes 0 to 7 of its data hold the length, byte 8 whether the bytes come here (log entry 31). -/
def takeCheck (s : State) (p : Packet) : State :=
  let len := leNat (p.data.take 8)
  let writes := leNat (slice p.data 8 1) = 1
  match refusal (peerChecks s (packetKey p) p.addr.toNat len (!writes)) with
  | some st => respond s p st
  | none =>
    let s := respond s p stOk
    if writes then
      let others := s.inbound.filter fun x => !(x.src = p.src.toNat && x.xfer = p.xfer.toNat)
      { s with inbound := others ++ [⟨p.src.toNat, p.xfer.toNat, packetKey p, p.addr.toNat, len, 0, false, 0, 0⟩] }
    else s

/-- A WRITE's bytes count for the transfer whose CHECK named them; the answer follows when all are there and FIN has come. -/
def noteWrite (s : State) (p : Packet) : State :=
  match s.inbound.find? fun x => x.src = p.src.toNat && x.xfer = p.xfer.toNat with
  | none => s
  | some x =>
    let u := (p.addr.toNat - x.base) / 64
    let y := { x with got := x.got + p.data.length, fin := x.fin || p.fin }
    let y := if p.tagOk then y
      else { y with failed := y.failed + ceilDiv p.data.length 64, firstBad := if x.failed = 0 then u else min x.firstBad u }
    if y.fin && y.need ≤ y.got then respondFin { s with inbound := s.inbound.filter (· ≠ x) } p y
    else { s with inbound := s.inbound.map fun z => if z = x then y else z }

/-- A packet's access to a range of the unified memory, which a memory channel in processor mode holds (R213, R316). -/
def withRange (s : State) (addr n : Nat) (c : Instr) (f : State → State) : State :=
  match rangeHeld s addr n with
  | some k => hold s k c
  | none => f s

/-- A WRITE at its destination lands; one whose tag fails zero-fills its bytes. -/
def landWrite (s : State) (port : Nat) (p : Packet) : State :=
    let s := if p.tagOk then s else tagFails s port p
    let bs := if p.tagOk then p.data else List.replicate p.data.length 0
    let s := putUnified s p.addr.toNat bs
    if p.tc = 2 then noteWrite s p else s

def takeWrite (s : State) (port : Nat) (p : Packet) : State :=
  if !p.tagOk && p.tc = 1 then tagFails s port p
  else withRange s p.addr.toNat p.data.length (.pktWrite port p) fun s => landWrite s port p

/-- A READ_REQ is answered with the bytes it asks for. -/
def answerRead (s : State) (p : Packet) : State :=
  let n := p.lenM1.toNat + 1
  let s := countRead s p.addr.toNat n
  originate s (answer p 3 (uReadN s p.addr.toNat n))

def takeReadReq (s : State) (port : Nat) (p : Packet) : State :=
  if !p.tagOk then tagFails s port p
  else withRange s p.addr.toNat (p.lenM1.toNat + 1) (.pktReadReq port p) fun s => answerRead s p

/-! ### Peer transfers at the engine -/

def xferOf (s : State) (p : Packet) : Option PeerXfer :=
  s.xfers.find? fun x => x.engine = p.xfer.toNat && x.desc.peer = p.src

def setXfer (s : State) (x : PeerXfer) : State :=
  { s with xfers := s.xfers.map fun y => if y.engine = x.engine then x else y }

/-- A peer transfer ends with what it has moved; the first failure is its status, and with STOP_ON_ERR halts the queue (R333). -/
def endXfer (s : State) (x : PeerXfer) (status : Nat) : State :=
  let s := dropXfer s x
  let st := if x.status = stOk then status else x.status
  let s := if st ≠ stOk && x.desc.stopOnErr then wr s x.fn (xqFld XPD_Q_HALTED x.queue) 1 else s
  finishDesc s x.fn x.queue x.engine x.desc { status := st, damaged := x.damaged, firstBad := x.firstBad, outLen := xferMoved x }

/-- The peer has granted the range: WRITEs go out, or READ_REQs. -/
def grantXfer (s : State) (x : PeerXfer) : State :=
  if x.write then
    let ps := piecesOf x.desc.dstAddr.toNat x.data.length
    let x := { x with waiting := false, pieces := ps }
    let s := bump0 s (inst DMA_OUT_B x.engine) x.data.length
    sendWrites (setXfer s x) x (fun o n => slice x.data o n) ps
  else
    let ps := piecesOf x.desc.srcAddr.toNat x.desc.srcLen.toNat
    forEach ps.zipIdx (setXfer s { x with waiting := false }) fun s p =>
      let q := bulk s x 2 (x.desc.srcAddr.toNat + p.1.1) (x.desc.dstAddr.toNat + p.1.1) (p.2 + 1 = ps.length) []
      originate s { q with lenM1 := BitVec.ofNat 12 (p.1.2 - 1) }

/-- What the peer's last answer says of units that failed there (log entry 31). -/
def notePeer (x : PeerXfer) (data : Bytes) : PeerXfer :=
  let n := leNat (slice data 1 4)
  if leNat (data.take 1) = stOk then x
  else
    let first := leNat (slice data 5 4)
    { x with damaged := x.damaged + max 1 n, firstBad := some (min (x.firstBad.getD first) first) }

/-- A CHECK_RESP: the answer to the CHECK, or the end of a write. -/
def takeCheckResp (s : State) (port : Nat) (p : Packet) : State :=
  if !p.tagOk then tagFails s port p
  else
    match xferOf s p with
    | none => s
    | some x =>
      let st := leNat (p.data.take 1)
      if !x.waiting then (if x.write then endXfer s (notePeer x p.data) st else s)
      else if st = stOk then grantXfer s x
      else
        finishDesc (dropXfer s x) x.fn x.queue x.engine x.desc { status := st }

/-- `bs` at offset `off` of `d`. -/
def placeAt (d : Bytes) (off : Nat) (bs : Bytes) : Bytes :=
  d.take off ++ List.replicate (off - d.length) 0 ++ bs ++ d.drop (off + bs.length)

/-- Bytes that a READ_RESP brings for offset `off`: to the destination here, or, for a COPY between two places of the peer, to the bytes
that go back to it. -/
def landRead (s : State) (x : PeerXfer) (off : Nat) (bs : Bytes) : State × PeerXfer :=
  let x := { x with pieces := x.pieces ++ [(off, bs.length)] }
  if x.desc.dstSpace = 2 then (s, { x with data := placeAt x.data off bs })
  else (putBytes s x.fn x.engine x.desc.dstSpace.toNat (x.desc.dstAddr.toNat + off) bs, x)

/-- Every byte has been read: the transfer ends, or goes on with a CHECK of the peer's destination. -/
def endRead (s : State) (x : PeerXfer) : State :=
  if x.desc.dstSpace = 2 then
    let y := { x with write := true, waiting := true, pieces := [] }
    sendCheck (setXfer s y) y x.desc.dstAddr.toNat x.data.length
  else endXfer s x stOk

/-- A READ_RESP lands at the place that its OUT_ADDR names; the transfer ends when every byte has arrived. The units of a failed tag are
zero-filled; with STOP_ON_ERR the first of them ends the transfer, and the rest stays unwritten (R333). -/
def landReadResp (s : State) (port : Nat) (p : Packet) : State :=
  let s := if p.tagOk then s else tagFails s port p
  match xferOf s p with
  | none => s
  | some x =>
    if x.waiting || x.write then s
    else
      let off := (p.outAddr.toNat + 2 ^ 43 - x.desc.dstAddr.toNat % 2 ^ 43) % 2 ^ 43
      let stop := !p.tagOk && x.desc.stopOnErr
      let n := if stop then min p.data.length (64 - off % 64) else p.data.length
      let s := bump0 s (inst DMA_IN_B x.engine) p.data.length
      let (s, x) := landRead s x off (if p.tagOk then p.data else List.replicate n 0)
      let x := if p.tagOk then x
        else { x with status := stUncorrected, damaged := x.damaged + ceilDiv n 64
                      firstBad := some (min (x.firstBad.getD (off / 64)) (off / 64)) }
      let s := if p.tagOk then s else bump0 s (inst DMA_UNCORR_CNT x.engine) (ceilDiv n 64)
      let s := setXfer s x
      if stop || x.desc.srcLen.toNat ≤ xferMoved x then (if stop then endXfer s x stOk else endRead s x) else s

/-- The bank that holds the bytes of a READ_RESP for a destination here (R213, R316). -/
def readRespHeld (s : State) (p : Packet) : Option Nat :=
  match xferOf s p with
  | some x =>
    if x.waiting || x.write || x.desc.dstSpace ≠ 1 then none
    else rangeHeld s (x.desc.dstAddr.toNat + (p.outAddr.toNat + 2 ^ 43 - x.desc.dstAddr.toNat % 2 ^ 43) % 2 ^ 43) p.data.length
  | none => none

def takeReadResp (s : State) (port : Nat) (p : Packet) : State :=
  match readRespHeld s p with
  | some k => hold s k (.pktReadResp port p)
  | none => landReadResp s port p

/-! ### REDUCE (R371) -/

/-- A subnormal reads as a zero of the same sign (R141). -/
def flushF (x : F32) : F32 := if f32Key x = 0 then x &&& 0x80000000 else x

/-- F32_MAX. The manual does not state which value a NaN or zeros of unlike sign give: a free value (log entry 3). -/
def reduceMax (s : State) (x y : F32) : F32 × State :=
  if f32IsNan x || f32IsNan y || (f32Key x = 0 && f32Key y = 0 && flushF x ≠ flushF y) then
    (Config.freeF32 s.freeCnt, { s with freeCnt := s.freeCnt + 1 })
  else (flushF (f32Max x y), s)

/-- Element by element, the incoming value first. -/
def reduceWords (op : Nat) : List (F32 × F32) → State → List F32 × State
  | [], s => ([], s)
  | (x, y) :: r, s =>
    let (v, s) := if op = 0 then (f32Add x y, s) else if op = 1 then (x + y, s) else reduceMax s x y
    let (vs, s) := reduceWords op r s
    (v :: vs, s)

def wordsOf (bs : Bytes) : List F32 := (List.range (bs.length / 4)).map fun i => BitVec.ofNat 32 (leNat (slice bs (4 * i) 4))

/-- The packet's data combined with this device's operand. -/
def reduceData (s : State) (p : Packet) : Bytes × State :=
  let own := uReadN s p.addr.toNat p.data.length
  let (vs, s) := reduceWords p.redOp.toNat ((wordsOf p.data).zip (wordsOf own)) (countRead s p.addr.toNat p.data.length)
  (vs.flatMap fun v => leBytes 4 v.toNat, s)

/-- The operand here, and at DST the place of the result. -/
def reduceHeld (s : State) (p : Packet) : Option Nat :=
  match rangeHeld s p.addr.toNat p.data.length with
  | some k => some k
  | none => if isMine s p then rangeHeld s p.outAddr.toNat p.data.length else none

/-- A REDUCE combines its data with the operand here: DST writes the result, a member sends it on. -/
def landReduce (s : State) (port : Nat) (p : Packet) : State :=
  let (bs, s) := reduceData s p
  if isMine s p then putUnified s p.outAddr.toNat bs
  else
    let (n, s) := takeCtr s (packetKey p)
    forward s port { p with data := bs, encId := BitVec.ofNat 4 (devIndex s), ctr := BitVec.ofNat 64 n }

/-- A REDUCE at a member or at DST. A reserved RED_OP or a length that is no multiple of 4 is discarded (log entry 34). -/
def takeReduce (s : State) (port : Nat) (p : Packet) : State :=
  if !isMine s p && !bit p.members.toNat (devIndex s) then forward s port p
  else if !p.tagOk then tagFails s port p
  else if p.redOp = 3 || p.data.length % 4 ≠ 0 then bump0 s (inst LNK_DROP port) 1
  else
    match reduceHeld s p with
    | some k => hold s k (.pktReduce port p)
    | none => landReduce s port p

/-! ### Revocation messages (R374, R426) -/

/-- Transfers of the tenant that peers were writing here end. -/
def dropInbound (s : State) (t : Nat) : State := { s with inbound := s.inbound.filter (·.key ≠ t) }

/-- A REVOKE: its first data byte names the tenant (log entry 31). -/
def takeRevoke (s : State) (port : Nat) (p : Packet) : State :=
  if !p.tagOk then tagFails s port p
  else
    let t := leNat (p.data.take 1) % 32
    let src := p.src.toNat
    let reply := originate s (control 10 src (leBytes 8 t))
    match revokeOf s t with
    | some r => if r.drained then reply else setRevoke s { r with asked := r.asked ++ [src] }
    | none => if slotState s t = 1 then beginRevoke (dropInbound s t) t false [] [src] else reply

def takeRevokeDone (s : State) (port : Nat) (p : Packet) : State :=
  if !p.tagOk then tagFails s port p
  else
    match revokeOf s (leNat (p.data.take 1) % 32) with
    | none => s
    | some r => settleDrain (setRevoke s { r with waiting := r.waiting.filter (· ≠ p.src.toNat) })

/-! ### The link layer (R359, R363) -/

/-- A LINK flit: acknowledged packets leave the retry buffer and credits return. -/
def takeLink (s : State) (port ack : Nat) (credits : List (Nat × Nat)) : State :=
  let x := portOf s port
  let left := x.unacked.filter fun u => 2048 ≤ (ack + 4096 - u.1 - 1) % 4096
  let used := credits.foldl (fun m c => mapSet 0 m c.1 (mapGetD m c.1 0 - c.2)) x.credits
  setPort s port { x with unacked := left, credits := used }

/-- A replay is requested from `ack`: the flits go again, and the eighth request in a row for one flit fails lane `worst`, the lane with
the most corrected symbols (R359). -/
def takeReplay (s : State) (port ack worst : Nat) : State :=
  let x := portOf s port
  let n := if x.asked = ack then x.askedRun + 1 else 1
  let s := setPort (bump0 s (inst LNK_REPLAY port) 1) port { x with asked := ack, askedRun := n % 8 }
  if n = 8 then
    let x := portOf s port
    trainEvent (setPort s port { x with badLanes := setBit x.badLanes (worst % 48) true }) port { event := 8 }
  else resend (send s (.replay port ack)) port

/-! ### The commands -/

def execPktWrite (port : Nat) (p : Packet) (s : State) : Out := act s fun s => deliver s port p 1 fun s => takeWrite s port p

def execPktReadReq (port : Nat) (p : Packet) (s : State) : Out := act s fun s => deliver s port p 2 fun s => takeReadReq s port p

def execPktReadResp (port : Nat) (p : Packet) (s : State) : Out := act s fun s => deliver s port p 3 fun s => takeReadResp s port p

def execPktCheck (port : Nat) (p : Packet) (s : State) : Out :=
  act s fun s => deliver s port p 4 fun s => if p.tagOk then takeCheck s p else tagFails s port p

def execPktCheckResp (port : Nat) (p : Packet) (s : State) : Out := act s fun s => deliver s port p 5 fun s => takeCheckResp s port p

def execPktReduce (port : Nat) (p : Packet) (s : State) : Out := act s fun s => arrive s port p 6 fun s => takeReduce s port p

def execPktRevoke (port : Nat) (p : Packet) (s : State) : Out := act s fun s => deliver s port p 9 fun s => takeRevoke s port p

def execPktRevokeDone (port : Nat) (p : Packet) (s : State) : Out :=
  act s fun s => deliver s port p 10 fun s => takeRevokeDone s port p

/-- A reserved OP is discarded on arrival (R364). -/
def execReservedPacket (port : Nat) (p : Packet) (s : State) : Out :=
  act s fun s =>
    if port < 4 && lnkState s port = lnkActive && (p.op = 0 || 11 ≤ p.op.toNat) then
      bump0 (takeFlits s port p) (inst LNK_DROP port) 1
    else s

/-- A LINK flit; `replay` is present when it asks for a replay, with the lane that has the most corrected symbols. -/
def execLinkFlit (port : Nat) (ack : BitVec 12) (credits : List (Nat × Nat)) (replay : Option Nat) (s : State) : Out :=
  act s fun s =>
    if port < 4 && lnkState s port = lnkActive then
      let s := takeLink s port ack.toNat credits
      match replay with
      | some worst => takeReplay s port ack.toNat worst
      | none => s
    else s

/-- A flit that fails its CRC: a replay is requested from the first SEQ not acknowledged. -/
def execFlitCrcFail (port : Nat) (s : State) : Out :=
  act s fun s => if port < 4 && lnkState s port = lnkActive then send s (.nak port (portOf s port).rxSeq) else s

end Sys2Proof.Machine
end

