-- ==== Sys2Proof/Machine/MemMaint.lean ====
section
/-! DEFINITION. Memory maintenance (09, 11, 13): refresh and targeted refresh (R251 to R255), patrol (R237), the dailies (R257 to R259),
relocation of granules (R288), conversion of regions (R231), and board pages (R342). -/
namespace Sys2Proof.Machine

/-! ### Refresh (R251, R252, R255) -/

/-- The stack's temperature lies above the bound of band 7: no rule binds the device (R14, R252). -/
def tooHot (s : State) (k : Nat) : Bool := bits (rd0 s (inst STK_REF_TEMP k)) 56 8 < rd0 s (inst STK_REF_STS_TEMP k)

/-- Activations of a bank's rows start again with its retention window. -/
def clearActivations (s : State) (key : Nat) : State :=
  { s with actCnt := s.actCnt.filter fun a => a.1 / Config.rowsPerBank ≠ key }

/-- A refresh command: 16 rows; 6,144 of them are a retention window. A running unit pauses (R216), and commands of a Roll beyond the
claim are counted (R253). -/
def refreshBank (s : State) (key : Nat) : State :=
  let k := bankStack key
  let pos := (mapGetD s.refPos key 0 + 1) % 6144
  let s := bump0 { s with refPos := mapSet 0 s.refPos key pos } (inst STK_REF_CNT k) 1
  let s := if pos = 0 then clearActivations s key else s
  let s := if (unitOf s key).running then bump0 s (inst BNK_PAUSE_CNT k) 1 else s
  if s.frame.phase = .roll then
    let n := mapGetD s.plan.refreshed key 0 + 1
    let s := { s with plan := { s.plan with refreshed := mapSet 0 s.plan.refreshed key n } }
    if mapGetD s.plan.refClaim k 0 < n then bump0 s (inst STK_REF_OVER k) 1 else s
  else s

/-- A targeted refresh of the two neighbours of a row whose count has reached STK_ACT.TH. -/
def targeted (s : State) (key row : Nat) : State :=
  let k := bankStack key
  if rd0 s (inst STK_ACT_TH k) ≤ mapGetD s.actCnt (actKeyOf key row) 0 then
    bump0 { s with actCnt := mapDel s.actCnt (actKeyOf key row) } (inst STK_TREF_CNT k) 1
  else s

/-! ### Patrol (R235, R237) -/

/-- Corrected and uncorrectable codewords of one patrol read. -/
def patrol (s : State) (key row c ue : Nat) : State :=
  let s := forEach (List.range c) s fun s _ => correctedAt s key row
  if ue = 0 then s
  else
    let s := bump0 (uncorrectableRead s key row) (inst STK_ECC_UNCORR (bankStack key)) (ue - 1)
    raise s { cls := clCorrected, reason := rsPatrolUe, type := 0x23, inst := bankStack key
              d0 := granDetail key (remapGran s key (row / Config.rowsPerGranule)) }

/-- Patrol reads protected rows of channels in shared mode, in time that the plan leaves. -/
def patrolOpen (s : State) (key row : Nat) : Bool :=
  row < Config.rowsPerBank && !computeRow s key row && !chanHeld s key

/-! ### The dailies (R257 to R259) -/

/-- Objects that the dailies check: LAYER or TABLE with a digest table, in compute granules. -/
def dailyObject (o : Obj) : Bool := (o.cls = 0 || o.cls = 1) && o.digestAddr ≠ 0 && o.prot && o.st = .package

/-- The first block of the stack from object and block (o, b) on. -/
def dailyFrom (s : State) (k o b : Nat) : Option (Nat × Nat) :=
  s.objs.findSome? fun p =>
    if p.1 < o || !dailyObject p.2 then none
    else ((List.range (32 * p.2.size)).find? fun i => (o < p.1 || b ≤ i) && blockIn s p.2 i k).map fun i => (p.1, i)

/-- The stored digest of a block, and the digest of its bytes. -/
def blockMatches (s : State) (o : Obj) (i : Nat) : Bool :=
  uReadN s (o.digestAddr + 8 * i) 8 = (digestBytes (sha384 (uReadN s (o.base + 65536 * i) 65536))).take 8

def dailyPos (s : State) (k : Nat) (p : Option (Nat × Nat)) : State :=
  let (o, b) := p.getD (0, 0)
  wr0 (wr0 s (inst RGN_DLY_POS_OBJ k) o) (inst RGN_DLY_POS_BLOCK k) b

/-- A CORRECTED event of the dailies. -/
def dailyEvent (s : State) (k reason key g o : Nat) : State :=
  raise s { cls := clCorrected, reason := reason, type := 0x26, inst := k, d0 := granDetail key g, d1 := o }

/-- Bitmap rows of resident reels' mask areas that copy bytes of the image: stack, bank, row and image address (R242, R257). -/
def maskCopies (s : State) : List (Nat × Nat × Nat × Nat) :=
  (List.range 4).flatMap fun r =>
    if !resident s r then []
    else (reelOf s r).masks.flatMap fun m =>
      let h := maskHead s m.addr
      (List.range (pieces (reelOf s r).vocab)).flatMap fun k =>
        let key := maskBank m.index k
        if mapGetD s.maskAreas key [] = [] then []
        else (List.range h.bitmaps).map fun b => (k, key, areaRow s key (bmpRow b), bmpPiece h k b)

/-- A copy that differs from the image is repaired, and checked again: a row that does not take the repair (`stuck`) marks its granule
RETIRING. In a RETIRING granule every sweep repairs it, and counts the repair (R233, R259). -/
def repairMask (s : State) (stuck : List (Nat × Nat)) (c : Nat × Nat × Nat × Nat) : State :=
  let (k, key, row, a) := c
  let good := uReadN s a 1024
  let g := row / Config.rowsPerGranule
  let o := (objAt s a).getD 0
  if rowRead s key row = good then s
  else
    let holds := !stuck.contains (key, row)
    let s := if holds then rowWrite s key row good else s
    if holds || granOf s key g = .maskRetiring then dailyEvent (bump0 s (inst RGN_DLY_REPAIRED k) 1) k rsDailyRepair key g o
    else dailyEvent (markRetiring (bump0 s (inst RGN_DLY_FAILED k) 1) key g) k rsDailyRetire key g o

/-- The copies of a block that has been checked, wherever they lie. -/
def repairMasks (s : State) (stuck : List (Nat × Nat)) (a : Nat) : State :=
  forEach ((maskCopies s).filter fun c => a ≤ c.2.2.2 && c.2.2.2 < a + 65536) s fun s c => repairMask s stuck c

/-- The bytes of an address lie in a block that the dailies check. -/
def dailyCovers (s : State) (a : Nat) : Bool := (objAt s a).any fun o => dailyObject (objOf s o)

/-- At the end of a stack's sweep its copies of an image that no block covers are held against it. -/
def sweepMasks (s : State) (k : Nat) (stuck : List (Nat × Nat)) : State :=
  forEach ((maskCopies s).filter fun c => c.1 = k && !dailyCovers s c.2.2.2) s fun s c => repairMask s stuck c

/-- A sweep of the stack ends: it counts, and the engine starts again from the first block. -/
def endSweep (s : State) (k : Nat) (stuck : List (Nat × Nat)) : State :=
  let s := wr0 s (inst RGN_DLY_SWEEPS k) (rd0 s (inst RGN_DLY_SWEEPS k) + 1)
  dailyPos (sweepMasks s k stuck) k (dailyFrom s k 0 0)

/-- The engine goes on to the next block. -/
def dailyAdvance (s : State) (k o b : Nat) (stuck : List (Nat × Nat)) : State :=
  match dailyFrom s k o (b + 1) with
  | some p => dailyPos s k (some p)
  | none => endSweep s k stuck

/-- One block is checked. -/
def checkBlock (s : State) (k o i : Nat) (stuck : List (Nat × Nat)) : State :=
  let x := objOf s o
  let s := { bump0 s (inst RGN_DLY_CHECKED k) 1 with
    plan := { s.plan with daily := mapSet 0 s.plan.daily k (mapGetD s.plan.daily k 0 + 1), dailyBlocks := s.plan.dailyBlocks + 1 } }
  let s :=
    if blockMatches s x i then repairMasks s stuck (x.base + 65536 * i)
    else if x.repairing.contains i then s
    else markPlanned (setObj s o { x with repairing := x.repairing ++ [i] }) k
  dailyAdvance s k o i stuck

/-- Roll, or the interval of a maintenance tick, runs (R41, R258). -/
def dailiesRun (s : State) : Bool := s.frame.kind ≠ .idle && s.frame.phase = .roll

/-- The engine of the stack waits for a memory channel to leave processor mode. -/
def dailyWaits (s : State) (k : Nat) : Bool :=
  s.apertureQ.any fun c => match c with | .dailyCheck d => d.stack = k | .dailyRecheck n _ _ _ => n = k | _ => false

/-- The bank that holds a check of a block: of its bytes or of its digest (R213, R258). -/
def blockHeld (s : State) (o : Obj) (i : Nat) : Option Nat :=
  match rangeHeld s (o.base + 65536 * i) 65536 with
  | some k => some k
  | none => rangeHeld s (o.digestAddr + 8 * i) 8

/-- The next block of a stack; none when its sweep has no block left. -/
def dailyNext (s : State) (k : Nat) : Option (Nat × Nat) :=
  dailyFrom s k (rd0 s (inst RGN_DLY_POS_OBJ k)) (rd0 s (inst RGN_DLY_POS_BLOCK k))

/-- Blocks that a stack may check in this interval: at most RGN_DLY.BLOCKS, and in a frame those that pass C claims (R91, R258). -/
def dailyRoom (s : State) (k : Nat) : Nat :=
  if s.frame.kind = .frame then min (rd0 s (inst RGN_DLY_BLOCKS k)) s.plan.dailyClaim else rd0 s (inst RGN_DLY_BLOCKS k)

/-- The engine checks its next block while the frame leaves it blocks; a memory channel in processor mode holds the check. -/
def dailyCheck (s : State) (k : Nat) (stuck : List (Nat × Nat)) : State :=
  if dailiesRun s && mapGetD s.plan.daily k 0 < dailyRoom s k && !dailyWaits s k then
    let s := if dailyNext s k = none then endSweep s k stuck else s
    match dailyNext s k with
    | none => s
    | some (o, i) =>
      match blockHeld s (objOf s o) i with
      | some key => hold s key (.dailyCheck ⟨k, stuck⟩)
      | none => checkBlock s k o i stuck
  else s

/-- The master copy's bytes of a block; none where there is no master copy or the reload fails. -/
def masterBytes (s : State) (o : Obj) (i : Nat) (hostData : Option Bytes) : Option Bytes :=
  if o.masterAddr = 0 then none
  else if o.masterHost then hostData.filter (·.length = 65536)
  else if insideObj s (o.masterAddr + 65536 * i) 65536 then some (uReadN s (o.masterAddr + 65536 * i) 65536)
  else none

/-- A block that cannot be reloaded. -/
def dailyFails (s : State) (k o : Nat) (x : Obj) : State :=
  raise (bump0 s (inst RGN_DLY_FAILED k) 1)
    { cls := clTenant, reason := 0x200, type := 0x26, inst := k, tenant := if x.shared then none else some x.tenant, d1 := o }

/-- The bank that holds the reload of a block: of its bytes or of its master copy in the unified range. -/
def reloadHeld (s : State) (o : Obj) (i : Nat) : Option Nat :=
  match blockHeld s o i with
  | some k => some k
  | none => if o.masterAddr = 0 || o.masterHost then none else rangeHeld s (o.masterAddr + 65536 * i) 65536

/-- The reload of a REPAIRING block, and its second check. -/
def recheck (s : State) (k o i : Nat) (hostData : Option Bytes) : State :=
  let x := objOf s o
  let s := markPlanned (setObj s o { x with repairing := x.repairing.filter (· ≠ i) }) k
  match masterBytes s x i hostData with
  | none => dailyFails s k o x
  | some bs =>
    let a := x.base + 65536 * i
    let s := putUnified s a bs
    let key := (byteBank s a).getD 0
    let g := match place s a with | .stack p => remapGran s p.key (p.row / Config.rowsPerGranule) | _ => 0
    if blockMatches s x i then dailyEvent (bump0 s (inst RGN_DLY_REPAIRED k) 1) k rsDailyRepair key g o
    else dailyEvent (markRetiring (bump0 s (inst RGN_DLY_FAILED k) 1) key g) k rsDailyRetire key g o

/-- A reload that a memory channel holds waits (R213). -/
def dailyRecheck (s : State) (k o i : Nat) (hostData : Option Bytes) : State :=
  if !(objOf s o).repairing.contains i || dailyWaits s k then s
  else
    match reloadHeld s (objOf s o) i with
    | some key => hold s key (.dailyRecheck k o i hostData)
    | none => recheck s k o i hostData

/-! ### Relocation (R233, R288) -/

/-- The lowest free compute granule of a bank. -/
def relocTarget (s : State) (key : Nat) : Option Nat := (List.range 48).find? fun g => granFree s key g true

/-- A RETIRING compute granule of memory channels 0 to 29 moves within its bank, while the bank has fewer than four remaps. -/
def relocate (s : State) (key g : Nat) : State :=
  let rs := mapGetD s.remap key []
  if granOf s key g ≠ .retiring || 30 ≤ bankChan key || g < bound s (bankStack key) (bankChan key) || 4 ≤ rs.length then s
  else
    match relocTarget s key with
    | none => s
    | some t =>
      let at_ := fun x => (key * Config.rowsPerBank + x * Config.rowsPerGranule) * Config.rowBytes
      let data := memReadN s.mem (at_ g) Config.granuleBytes
      let s := { s with mem := memWrite s.mem (at_ t) data, remap := mapPut s.remap key (rs ++ [(g, t)]) }
      bump0 (setGran s key g .retired) MIG_RELOC_CNT 1

/-! ### Conversion (R231) -/

/-- The granules of a channel between two boundaries are zeroed, the check bits of protected ones included. -/
def convert (s : State) (k ch old new : Nat) : State :=
  forEach (List.range 32) s fun s b => forEach (movedGrans old new) s fun s g =>
    let key := bankKey k ch b
    { s with mem := memZero s.mem ((key * Config.rowsPerBank + g * Config.rowsPerGranule) * Config.rowBytes) Config.granuleBytes }

/-- An accepted boundary starts a conversion pass. -/
def startConversion (s : State) (k ch v : Nat) : State :=
  let old := bound s k ch
  let s := convert (wr0 s (boundFld k ch) v) k ch old v
  if v = old then s else wr0 s (inst RGN_STS_CONVERTING k) 1

/-- A write of one boundary (R45, R231); a write that changes nothing has no effect. -/
def writeBound (s : State) (k ch v : Nat) : State :=
  if v = bound s k ch then s
  else
    match boundStatus s k ch v with
    | some st => dropWrite s 0 (0xE0000 + 0x1000 * k) st (boundFld k ch)
    | none => startConversion s k ch v

/-! ### The commands -/

/-- REFRESH of a bank. On a stack above band 7 of its curve no rule binds the device (R14): the model stops there. -/
def execRefresh (u : BankId) (s : State) : Out :=
  if running s && unitExists u && tooHot s u.stack then .fault .outOfSpecification
  else act s fun s => if unitExists u then refreshBank s (bankOf u) else s

def execTargetedRefresh (u : BankId) (row : Nat) (s : State) : Out :=
  act s fun s => if unitExists u then targeted s (bankOf u) row else s

def execPatrolRead (u : BankId) (row : Nat) (corrected uncorrectable : Nat) (s : State) : Out :=
  act s fun s =>
    if unitExists u && patrolOpen s (bankOf u) row then patrol s (bankOf u) row corrected uncorrectable else s

def execDailyCheck (d : DailyIn) (s : State) : Out :=
  act s fun s => if d.stack < 32 then dailyCheck s d.stack d.stuck else s

def execDailyRecheck (stack obj block : Nat) (hostData : Option Bytes) (s : State) : Out :=
  act s fun s => if stack < 32 then dailyRecheck s stack obj block hostData else s

def execGranuleRelocate (u : BankId) (gran : Nat) (s : State) : Out :=
  act s fun s => if unitExists u && gran < 48 then relocate s (bankOf u) gran else s

def execRgnBoundWrite (stack chan : Nat) (bound : BitVec 6) (s : State) : Out :=
  act s fun s => if stack < 32 && chan < 32 then writeBound s stack chan bound.toNat else s

def execConversionDone (stack : Nat) (s : State) : Out :=
  act s fun s => if stack < 32 then wr0 s (inst RGN_STS_CONVERTING stack) 0 else s

def execBoardPageFillDone (page : Nat) (s : State) : Out := act s fun s => fillDone s page

/-- Refresh of one bank of a rank of a board-memory channel: the bytes stay, and no register counts it (R339). -/
def execBoardMemoryRefresh (_chan _rank _bank : Nat) (s : State) : Out := act s fun s => s

end Sys2Proof.Machine
end

