-- ==== Sys2Proof/Machine/Held.lean ====
section
/-! DEFINITION. Accesses that a memory channel in processor mode holds until it is back in shared mode (R213 to R215), and the aperture's
accesses (R304). -/
namespace Sys2Proof.Machine

/-! ### The aperture -/

def apertureAddr (s : State) (x : Nat) : Nat := rd0 s UMR_APT_BASE * 2 ^ 21 + x

/-- Aperture accesses are served in the order in which they arrive. -/
def isAperture : Instr → Bool
  | .apertureRead .. | .apertureWrite .. => true
  | _ => false

/-- Some byte of the range is not mapped. -/
def rangeUnmapped (s : State) (addr n : Nat) : Bool := (List.range n).any fun i => (objAt s (addr + i)).isNone

/-- Bytes of a range whose codeword cannot be corrected are open: free values stand for them (R235, R339, log entry 3). -/
def readBytes (s : State) (addr n : Nat) (bad : List Nat) : Bytes :=
  (List.range n).map fun i =>
    if bad.any fun b => b / 64 = (addr + i) / 64 then (Config.free64 (s.freeCnt + i)).setWidth 8 else uRead s (addr + i)

/-- Errors of a read are counted, and free values drawn for what failed. -/
def chargeErrs (s : State) (n : Nat) (errs : ReadErrs) : State :=
  let s := forEach errs.corr (forEach errs.bad s readError) readCorrected
  if errs.bad = [] then s else { s with freeCnt := s.freeCnt + n }

def serveRead (s : State) (x : Nat) (r : ReadIn) : State :=
  let n := r.len
  let errs := r.errs
  let a := apertureAddr s x
  let s := if rangeUnmapped s a n then bump0 s UMR_APT_DROP 1 else s
  let s := countRead s a n
  let errs := { errs with bad := errs.bad.filter (canFail s) }
  send (chargeErrs s n errs) (.readData (readBytes s a n errs.bad))

def serveWrite (s : State) (x : Nat) (bs : Bytes) : State :=
  let a := apertureAddr s x
  let s := if rangeUnmapped s a bs.length then bump0 s UMR_APT_DROP 1 else s
  putUnified s a bs

/-- A request through BAR2 reaches the device: inside the 64 GiB window of a function that is not in D3hot or in reset. -/
def apertureOpen (s : State) (x n : Nat) : Bool := x + n ≤ 2 ^ 36 && !(fnOf s 0).d3hot && !(fnOf s 0).inFlr

/-! ### Held accesses -/

/-- The bank that still holds an access. -/
def heldKey (s : State) (c : Instr) : Option Nat :=
  match c with
  | .zero (.hub u _) => if chanHeld s (bankOf u) then some (bankOf u) else none
  | .apertureRead x r => rangeHeld s (apertureAddr s x) r.len
  | .apertureWrite x bs => rangeHeld s (apertureAddr s x) bs.length
  | .attn i _ | .attnWalk i _ _ _ _ _ => (jobOf s i kAttn).bind (attnHeld s)
  | .dailyCheck d => (dailyNext s d.stack).bind fun p => blockHeld s (objOf s p.1) p.2
  | .dailyRecheck _ o i _ => reloadHeld s (objOf s o) i
  | .pktWrite _ p => rangeHeld s p.addr.toNat p.data.length
  | .pktReadReq _ p => rangeHeld s p.addr.toNat (p.lenM1.toNat + 1)
  | .pktReadResp _ p => readRespHeld s p
  | .pktReduce _ p => reduceHeld s p
  | c => (dmaOf c).bind fun i => descHeld s (ownPeer s i.desc)

/-- A packet that waited acts, unless its tenant has been revoked since (R374). -/
def servePacket (s : State) (port : Nat) (p : Packet) (f : State → State) : State :=
  if revoked s p then bump0 s (inst LNK_RVK_DROP port) 1 else f s

/-- A held access is issued. -/
def serveOne (s : State) (c : Instr) : State :=
  match c with
  | .zero (.hub u row) => rowIssued (hubZero s (bankOf u) row) (bankOf u) row
  | .apertureRead x r => serveRead s x r
  | .apertureWrite x bs => serveWrite s x bs
  | .attn i ue => attnStage i ue s
  | .attnWalk i e pair lane bad corr => attnWalkStage i e pair lane bad corr s
  | .dailyCheck d => dailyCheck s d.stack d.stuck
  | .dailyRecheck k o i hostData => dailyRecheck s k o i hostData
  | .pktWrite port p => servePacket s port p fun s => landWrite s port p
  | .pktReadReq port p => servePacket s port p fun s => answerRead s p
  | .pktReadResp port p => servePacket s port p fun s => landReadResp s port p
  | .pktReduce port p => servePacket s port p fun s => landReduce s port p
  | c => match dmaOf c with | some i => resumeDesc s i | none => s

/-- Held accesses are issued in order; an aperture access behind one that still waits waits too. -/
def releaseHeld : List Instr → Bool → State → State
  | [], _, s => s
  | c :: cs, blocked, s =>
    if (heldKey s c).isSome || (isAperture c && blocked) then
      releaseHeld cs (blocked || isAperture c) { s with apertureQ := s.apertureQ ++ [c] }
    else releaseHeld cs blocked (serveOne s c)

def serveHeld (s : State) : State := releaseHeld s.apertureQ false { s with apertureQ := [] }

/-! ### The switch to shared mode (R214, R215) -/

/-- A channel's units have all halted (R215). -/
def chanIdle (s : State) (k c : Nat) : Bool := (List.range 32).all fun b => !(unitOf s (bankKey k c b)).running

/-- Row windows are cleared; a unit keeps the program it loaded (R208). -/
def clearWindows (s : State) (k c : Nat) : State :=
  forEach (List.range 32) s fun s b =>
    let x := unitOf s (bankKey k c b)
    setUnit s (bankKey k c b) { x with dead := false, winBase := 0, winRows := 0 }

/-- Channels of a stack switch back, and held accesses are issued. -/
def enterShared (s : State) (k : Nat) (cs : List Nat) : State :=
  let f := inst BNK_MODE_PROC k
  let s := cs.foldl (fun s c =>
    clearWindows (bump0 (wr0 s f (setBit (rd0 s f) c false)) (inst BNK_SWITCH_CNT k) 1) k c) s
  serveHeld { s with plan := { s.plan with switches := s.plan.switches + cs.length } }

/-- Channels of a stack whose switch to shared mode waits for their last unit. -/
def setDue (s : State) (k c : Nat) (v : Bool) : State :=
  { s with switchDue := mapSet 0 s.switchDue k (setBit (mapGetD s.switchDue k 0) c v) }

/-- The last unit of a memory channel has halted: a switch whose point has passed begins (R215). -/
def beginDue (s : State) (key : Nat) : State :=
  let k := bankStack key
  let c := bankChan key
  if bit (mapGetD s.switchDue k 0) c && chanIdle s k c then enterShared (setDue s k c false) k [c] else s

end Sys2Proof.Machine
end

