-- ==== Sys2Proof/Machine/BankUnit.lean ====
section
/-! DEFINITION. Bank units (08): the state a unit reads and writes, its windows (R196), its program counter with REP and BNZ (R199), faults
(R202), and the effect of every instruction of R199 with the row operations of R238. -/
namespace Sys2Proof.Machine

/-! ### Units -/

/-! ### Registers -/

def zeroLanes : List W16 := List.replicate 16 0
def vGet (x : UnitSt) (i : Nat) : List W16 := mapGetD x.v i zeroLanes
def vPut (x : UnitSt) (i : Nat) (l : List W16) : UnitSt := { x with v := mapSet zeroLanes x.v i l }

/-- The 8 lanes of 32 bits of a register. -/
def lanes32 (l : List W16) : List W32 := (List.range 8).map fun j => (l.getD (2 * j + 1) 0) ++ (l.getD (2 * j) 0)
def ofLanes32 (l : List W32) : List W16 := l.flatMap fun w => [w.extractLsb' 0 16, w.extractLsb' 16 16]

def sGet (x : UnitSt) (i : BitVec 4) : W32 := mapGetD x.s i.toNat 0
def sPut (x : UnitSt) (i : BitVec 4) (v : W32) : UnitSt := { x with s := mapSet 0 x.s i.toNat v }

def rbRead (x : UnitSt) (k : BitVec 3) (a n : Nat) : Bytes := memReadN x.rb (1024 * k.toNat + a) n
def rbWrite (x : UnitSt) (k : BitVec 3) (a : Nat) (bs : Bytes) : UnitSt := { x with rb := memWrite x.rb (1024 * k.toNat + a) bs }

def lutGet (x : UnitSt) (i : Nat) : W16 := mapGetD x.lut i 0

/-! ### Program counter (R199) -/

/-- The next instruction of a program, with the passes of a REP. -/
def nextPc (x : UnitSt) : UnitSt :=
  let pc := (x.pc + 1) % 4096
  match x.rep with
  | some (a, len, left) =>
    if pc = (a + len) % 4096 then
      if left ≤ 1 then { x with pc := pc, rep := none } else { x with pc := a, rep := some (a, len, left - 1) }
    else { x with pc := pc }
  | none => { x with pc := pc }

/-- Cost of an instruction in unit clocks; waits do not count (R199). -/
def codeClocks (x : UnitSt) : Code → Nat
  | .halt => 32
  | .bnz a _ => if sGet x a = 0 then 1 else 3
  | .smul .. => 2
  | .tb .. => ceilDiv (2 ^ x.w) 16
  | .lane o _ _ => match o with | .fred => 3 | .fexp2 => 12 | .frsq => 20 | .frcp => 22 | .fsilu => 44 | _ => 1
  | .fq16 .. => 2
  | _ => 1

/-! ### Windows (R196) -/

/-- Staging rows of a bank: memory channels 0 to 29 (R209). -/
def stagingCount (s : State) (key : Nat) : Nat :=
  if bankChan key < 30 then rd0 s (inst BNK_STAGE_A_ROWS (bankStack key)) + rd0 s (inst BNK_STAGE_B_ROWS (bankStack key)) else 0

/-- The bank's row that a relative row of a window names; none outside the window. -/
def windowRow (s : State) (key : Nat) (x : UnitSt) (staging : Bool) (r : Nat) : Option Nat :=
  if staging then (if r < stagingCount s key then some (stageRow0 s key + r) else none)
  else if r < x.winRows then some (x.winBase + r) else none

/-! ### Faults (R202) -/

/-- Why a unit faults: BNK_FAULT_INFO's TYPE, and the row referenced. -/
structure UnitFault where
  type : Nat
  row : Nat
  deriving DecidableEq, Repr

def faultInfo (s : State) (k : Nat) : Nat :=
  rd0 s (inst BNK_FAULT_CHAN k) + rd0 s (inst BNK_FAULT_BANK k) * 2 ^ 5 + rd0 s (inst BNK_FAULT_PC k) * 2 ^ 10
    + rd0 s (inst BNK_FAULT_TYPE k) * 2 ^ 22 + rd0 s (inst BNK_FAULT_ROW k) * 2 ^ 25

/-- BNK_FAULT_INFO takes the first fault since BLK_ERR was last cleared. -/
def captureFault (s : State) (key : Nat) (x : UnitSt) (f : UnitFault) : State :=
  let k := bankStack key
  if (collOf s k).faulted then s
  else
    let s := setColl s k { collOf s k with faulted := true }
    let s := wr0 (wr0 s (inst BNK_FAULT_CHAN k) (bankChan key)) (inst BNK_FAULT_BANK k) (key % 32)
    let s := wr0 (wr0 s (inst BNK_FAULT_PC k) x.pc) (inst BNK_FAULT_TYPE k) f.type
    wr0 s (inst BNK_FAULT_ROW k) (if f.type = 0 then f.row else 0)

/-- A unit belongs to the run of another: of its stage, expert and reel (R210). -/
def sameRun (x y : UnitSt) : Bool := x.running && x.reel = y.reel && x.stage = y.stage && x.expert = y.expert

/-- Units of the run of the unit at `key`; a hub program's run on the privileged shared channels takes in the units of its stack (log entry
51). -/
def runUnits (s : State) (key : Nat) (x : UnitSt) : List Nat :=
  (s.units.filter fun u =>
    if 30 ≤ bankChan key then 30 ≤ bankChan u.1 && bankStack u.1 = bankStack key && u.2.running
    else bankChan u.1 < 30 && sameRun u.2 x).map (·.1)

/-- A unit faults: it halts, every other unit of its run halts, and the frame fails. -/
def unitFails (s : State) (key : Nat) (x : UnitSt) (f : UnitFault) : State :=
  let k := bankStack key
  let s := captureFault (bump0 s (inst BNK_FAULT_CNT k) 1) key x f
  let run := runUnits s key x
  let s := { s with runs := s.runs.filter fun r => 30 ≤ bankChan key || !unitInRun x r }
  let s := forEach run s fun s u => setUnit s u { clearUnit (unitOf s u) with dead := bankChan key < 30 }
  let s := setUnit s key { clearUnit x with dead := bankChan key < 30 }
  let s := forEach (key :: run) s beginDue
  let s := setColl s k { collOf s k with ready := (collOf s k).ready.filter fun u => (unitOf s u).offered.isSome }
  failFrame (raise s { cls := clFrame, reason := 0x304, type := 0x25, inst := k, d0 := faultInfo s k })

/-! ### Instructions that touch only the unit -/

def vecFn : VecOp → W32 → W32 → W32 → W32
  | .iadd, a, b, _ => a + b
  | .isha, a, b, _ => a <<< 8 + b
  | .fadd, a, b, _ => f32Add a b
  | .fsub, a, b, _ => f32SubOp a b
  | .fmul, a, b, _ => f32Mul a b
  | .ffma, a, b, d => f32Fma a b d

def vecOp (x : UnitSt) (o : VecOp) (d a b : Nat) : UnitSt :=
  let la := lanes32 (vGet x a)
  let lb := lanes32 (vGet x b)
  let ld := lanes32 (vGet x d)
  vPut x d (ofLanes32 ((List.range 8).map fun j => vecFn o (la.getD j 0) (lb.getD j 0) (ld.getD j 0)))

def laneFn : LaneOp → W32 → W32
  | .cvti, v => f32OfInt v.toInt
  | .cvth, v => v
  | .fred, v => v
  | .fexp2, v => exp2K v
  | .frsq, v => rsqrtK v
  | .frcp, v => rcpK v
  | .fsilu, v => siluK v

def laneOp (x : UnitSt) (o : LaneOp) (d a : Nat) : UnitSt :=
  let src := vGet x a
  match o with
  | .cvth => vPut x d (ofLanes32 ((List.range 8).map fun j => f32OfF16 (src.getD j 0).toNat))
  | .fred => vPut x d (ofLanes32 (pairReduce 3 (lanes32 src) :: (lanes32 (vGet x d)).drop 1))
  | o => vPut x d (ofLanes32 ((lanes32 src).map (laneFn o)))

/-- One element of FQ16. A product that is a NaN without its element being one has no stated code: a free value (log entry 3). -/
def fq16Lane (inv : W32) (a : UnitSt × List W16 × Nat) (v : W32) : UnitSt × List W16 × Nat :=
  let (x, codes, k) := a
  let q := quant16 v inv
  let openCode := !f32IsNan v && f32IsNan (f32Mul v inv)
  let code : W16 := if openCode then (Config.free64 k).setWidth 16 else BitVec.ofInt 16 q.code
  let x := { x with
    amax := if q.nan || !f32Lt x.amax q.mag then x.amax else q.mag
    nan := x.nan + q.nan.toNat, clamp := x.clamp + q.clamp.toNat
    wide := x.wide || decide (127 < code.toInt.natAbs) }
  (x, codes ++ [code], if openCode then k + 1 else k)

/-- FQ16 of the 8 lanes; the count of free values drawn follows. -/
def fq16 (x : UnitSt) (d a b : Nat) (half : BitVec 1) (k : Nat) : UnitSt × Nat :=
  let inv := (lanes32 (vGet x b)).getD 0 0
  let (x, codes, k) := (lanes32 (vGet x a)).foldl (fq16Lane inv) (x, [], k)
  let old := vGet x d
  (vPut x d (if half = 0 then codes ++ old.drop 8 else old.take 8 ++ codes), k)

/-- q of TB (R200). Mode 3 is undefined: `free` stands for it (log entry 3). -/
def tbQ (q : W16) (mode : BitVec 2) (free : W16) : Int :=
  if mode = 0 then (q.setWidth 8).toInt else if mode = 1 then (q.sshiftRight 8).toInt
  else if mode = 2 then ((q.setWidth 8).toNat : Int) else free.toInt

/-- Entry `k` of the codebook registers from V[d] on; a register beyond V31 is open: `free` (log entry 3). -/
def codebookAt (x : UnitSt) (d k : Nat) (free : W16) : Int :=
  if d + k / 16 < 32 then ((vGet x (d + k / 16)).getD (k % 16) 0).toInt else free.toInt

def buildTable (x : UnitSt) (d a : Nat) (base : Nat) (lane : Nat) (mode : BitVec 2) (n : Nat) : UnitSt :=
  let qq := tbQ ((vGet x a).getD lane 0) mode ((Config.free64 n).setWidth 16)
  forEach (List.range (2 ^ x.w)) x fun x k =>
    let c := codebookAt x d k ((Config.free64 (n + 1 + k)).setWidth 16)
    { x with lut := mapSet 0 x.lut (base + k) (BitVec.ofInt 16 (c * qq)) }

/-- Code of row `r` and column `c` in RB[k] and RB[k+1] (R144, R200). -/
def unitCode (x : UnitSt) (k : BitVec 3) (r c : Nat) : Nat :=
  let b := x.w * (128 * r + c)
  bits (leNat (rbRead x k (b / 8) 3)) (b % 8) x.w

/-- Every code of column `c` lies in the two buffers, and none beyond RB7. -/
def codesInside (x : UnitSt) (k : BitVec 3) (c : Nat) : Bool :=
  let last := (x.w * (128 * 15 + c) + x.w - 1) / 8
  last < 2048 && 1024 * k.toNat + last < 8192

def lookUp (x : UnitSt) (d : Nat) (k : BitVec 3) (c base : Nat) (set : Bool) : UnitSt :=
  let acc := lanes32 (vGet x d) ++ lanes32 (vGet x (d + 1))
  let new := (List.range 16).map fun r =>
    (if set then 0 else acc.getD r 0) + (lutGet x (base + unitCode x k r c)).signExtend 32
  vPut (vPut x d (ofLanes32 (new.take 8))) (d + 1) (ofLanes32 (new.drop 8))

/-- An accumulator pair that begins at an odd register is undefined: free values land in its registers (log entry 3). -/
def freePair (x : UnitSt) (d n : Nat) : UnitSt :=
  let lanes := fun m => (List.range 16).map fun i => ((Config.free64 (n + 16 * m + i)).setWidth 16 : W16)
  let x := vPut x d (lanes 0)
  if d + 1 < 32 then vPut x (d + 1) (lanes 1) else x

/-! ### Row operations (R238) -/

def rowFnBytes (s : State) (key : Nat) (f : RowFn) (d a b : Nat) : Bytes :=
  let rd := rowRead s key
  match f with
  | .zero => List.replicate 1024 0
  | .copy => rd a
  | .not => (rd a).map (~~~ ·)
  | .and => zipBytes (· &&& ·) (rd a) (rd b)
  | .or => zipBytes (· ||| ·) (rd a) (rd b)
  | .xor => zipBytes (· ^^^ ·) (rd a) (rd b)
  | .maj3 => (List.zip (rd d) (List.zip (rd a) (rd b))).map fun t => (t.1 &&& t.2.1) ||| (t.1 &&& t.2.2) ||| (t.2.1 &&& t.2.2)

/-- Relative rows that an operation uses. -/
def rowsUsed (f : RowFn) (d a b : Nat) : List Nat :=
  match f with
  | .zero => [d]
  | .copy | .not => [d, a]
  | _ => [d, a, b]

def rowopFault (s : State) (key : Nat) (x : UnitSt) (rs : List Nat) : Option UnitFault :=
  (rs.find? fun r => (windowRow s key x false r).isNone).map fun r => ⟨0, r⟩

/-! ### Faults of one instruction (R202) -/

/-- Bytes of the collection that the unit's next COLLECT belongs to: beats per token, tokens; of phase 0 of an EXPERT run no more than its
sub-runs have brought (R210). -/
def collectShape (s : State) (x : UnitSt) : Nat × Nat :=
  let h := progHead s (((reelOf s x.reel).stages[x.stage]?).map (·.progAddr) |>.getD 0)
  let sub := match s.runs.find? (unitInRun x) with
    | some q => if x.phase = 0 && runIsExpert s q then min x.n (q.first + q.count) else x.n
    | none => x.n
  (h.beats.getD x.phase 0, min (h.tokMax.getD x.phase 0) (sub - x.collected))

def spanFault (a n : Nat) : Option UnitFault := if 1024 < a + n then some ⟨1, 0⟩ else none

/-- The fault that an instruction meets before the watchdog. -/
def codeFault (s : State) (key : Nat) (x : UnitSt) : Code → Option UnitFault
  | .rld a _ st | .rst a _ st =>
    if (windowRow s key x (st = 1) (sGet x a).toNat).isNone then some ⟨0, (sGet x a).toNat⟩ else none
  | .rowop f d a b => rowopFault s key x (rowsUsed f (sGet x d).toNat (sGet x a).toNat (sGet x b).toNat)
  | .vld _ a _ _ | .vst _ a _ _ => spanFault (sGet x a).toNat 32
  | .vldx _ a _ _ => spanFault (sGet x a).toNat 16
  | .collect a _ =>
    if 30 ≤ bankChan key then none else let c := collectShape s x; spanFault (sGet x a).toNat (8 * (c.1 * c.2))
  | .tb _ _ b _ _ => if 256 < (sGet x b).toNat + 2 ^ x.w then some ⟨2, 0⟩ else none
  | .lka _ a b k _ _ =>
    if !codesInside x k (sGet x a).toNat then some ⟨1, 0⟩
    else if (List.range 16).any fun r => 255 < (sGet x b).toNat + unitCode x k r (sGet x a).toNat then some ⟨2, 0⟩
    else none
  | _ => none

/-- The fault of an instruction, the watchdog of MAX_CYC × N clocks included. -/
def faultOf (s : State) (key : Nat) (x : UnitSt) (c : Code) : Option UnitFault :=
  match codeFault s key x c with
  | some f => some f
  | none => if x.limit < x.clocks + codeClocks x c then some ⟨3, 0⟩ else none

/-! ### Launching a run (R205, R208, R210, R214) -/

/-- Code words that a run loads from its program rows (R208). -/
def loadCode (s : State) (key base words : Nat) : Map W32 :=
  (List.range words).filterMap fun i =>
    let a := rowAddr s key (base + i / 256) (4 * (i % 256))
    let w := BitVec.ofNat 32 (leNat (memReadN s.mem a 4))
    if w = 0 then none else some (i, w)

/-- The run of a stage and expert that a bank path has begun. -/
def runFor (s : State) (reel stage expert : Nat) : Option BankRun :=
  s.runs.find? fun x => x.reel = reel && x.stage = stage && x.expert = expert

/-- A unit's row window and run parameters, latched from its placement record (R205, R214): N and WIDE of the run that has begun, else those
of the switch. The code is loaded for a run of another program (R208). -/
def latchUnit (s : State) (run : RunIn) (h : ProgHead) (p : PlaceRec) : State :=
  let x := unitOf s p.key
  let r := runFor s run.reel run.stage p.expert
  let n := (r.map (runTokens s)).getD run.n
  let g := ((reelOf s run.reel).stages[run.stage]?).map (·.progAddr) |>.getD 0
  let prog := some ((reelOf s run.reel).digest, g)
  setUnit s p.key { clearUnit x with
    running := true, dead := false, code := if x.prog = prog then x.code else loadCode s p.key (p.rowBase + h.codeRow) h.words, prog := prog
    reel := run.reel, stage := run.stage, expert := p.expert, p0 := p.p0, p1 := p.p1, out0 := p.out0, out1 := p.out1, n := n
    wideRun := (r.map (·.wide)).getD run.wide, unit := p.unit, phase := 0, collected := 0, limit := h.maxCyc * n
    winBase := p.rowBase, winRows := p.rowCount }

/-- The next sub-run of a run: its input is delivered; a PROJ sub-run is a complete run, whose units start over (R210). -/
def nextSub (s : State) (x : BankRun) : State :=
  match x.left with
  | [] => { s with runs := s.runs.filter (· ≠ x) }
  | q :: rest =>
    let y := { x with first := x.first + x.count, count := q.length, left := rest }
    let ps := runBanks s y.reel y.stage y.expert
    let h := progHead s (((reelOf s y.reel).stages[y.stage]?).map (·.progAddr) |>.getD 0)
    let s := feedRun { s with runs := s.runs.map fun z => if z = x then y else z } y q
    if runIsExpert s y then s
    else
      let s := forEach ((ps.map fun p => bankStack p.key).eraseDups) s fun s k => bump0 s (inst BNK_RUN_CNT k) 1
      forEach (ps.filter fun p => chanHeld s p.key) s fun s p => latchUnit s ⟨y.reel, y.stage, 0, y.wide⟩ h p

/-- The last unit of a run has halted: the run goes on with its next sub-run, or ends. -/
def runEnds (s : State) (x : UnitSt) : State :=
  match s.runs.find? (unitInRun x) with
  | none => s
  | some r =>
    if s.units.any (fun u => u.2.running && bankChan u.1 < 30 && unitInRun u.2 r) || s.frame.phase ≠ .roll then s
    else if runIsExpert s r then { s with runs := s.runs.filter (· ≠ r) }
    else nextSub s r

/-! ### Effects -/

/-- Run parameter of SPARAM; a number above 3 is undefined: `free` (log entry 3). -/
def runParam (x : UnitSt) (imm : Nat) (free : W32) : W32 :=
  if imm = 0 then BitVec.ofNat 32 x.n else if imm = 1 then BitVec.ofNat 32 x.wideRun.toNat
  else if imm = 2 then BitVec.ofNat 32 x.unit else if imm = 3 then BitVec.ofNat 32 x.phase else free

/-- Adds `n` to S[a] when the increment bit is set. -/
def stepAddr (x : UnitSt) (a : BitVec 4) (inc : BitVec 1) (n : W32) : UnitSt :=
  if inc = 1 then sPut x a (sGet x a + n) else x

/-- REP: a count of 0 skips the instructions. -/
def startRep (x : UnitSt) (a : BitVec 4) (len : Nat) : UnitSt :=
  if sGet x a = 0 then { x with pc := (x.pc + 1 + len) % 4096 }
  else { x with pc := (x.pc + 1) % 4096, rep := some ((x.pc + 1) % 4096, len, (sGet x a).toNat) }

/-- BNZ: a taken branch adds IMM to PC. -/
def branch (x : UnitSt) (a : BitVec 4) (imm : BitVec 9) : UnitSt :=
  if sGet x a = 0 then nextPc x
  else { sPut x a (sGet x a - 1) with pc := (((x.pc : Int) + imm.toInt) % 4096).toNat }

/-- The unit's own change by an instruction that has not faulted; free values are those from number `n` on. -/
def unitChange (x : UnitSt) (n : Nat) : Code → UnitSt
  | .setw cw => { x with w := if cw.ult 6 then codeWidth cw.toNat else 2 + (Config.free64 n).toNat % 7 }
  | .smov d imm => sPut x d (imm.signExtend 32)
  | .sadd d a b => sPut x d (sGet x a + sGet x b)
  | .saddi d a imm => sPut x d (sGet x a + imm.signExtend 32)
  | .smul d a b => sPut x d (sGet x a * sGet x b)
  | .sparam d imm => sPut x d (runParam x imm.toNat ((Config.free64 n).setWidth 32))
  | .vld d a k inc =>
    let bs := rbRead x k (sGet x a).toNat 32
    stepAddr (vPut x d.toNat ((List.range 16).map fun i => BitVec.ofNat 16 (leNat ((bs.drop (2 * i)).take 2)))) a inc 32
  | .vst d a k inc => stepAddr (rbWrite x k (sGet x a).toNat ((vGet x d.toNat).flatMap fun l => leBytes 2 l.toNat)) a inc 32
  | .vldx d a k inc => stepAddr (vPut x d.toNat ((rbRead x k (sGet x a).toNat 16).map fun b => b.signExtend 16)) a inc 16
  | .tb d a b lane mode => buildTable x d.toNat a.toNat (sGet x b).toNat lane.toNat mode n
  | .lka d a b k inc set =>
    let x' := if d.getLsbD 0 then freePair x d.toNat n else lookUp x d.toNat k (sGet x a).toNat (sGet x b).toNat (set = 1)
    stepAddr x' a inc 1
  | .vec o d a b => vecOp x o d.toNat a.toNat b.toNat
  | .lane o d a => laneOp x o d.toNat a.toNat
  | .fbc d a lane => vPut x d.toNat (ofLanes32 (List.replicate 8 ((lanes32 (vGet x a.toNat)).getD lane.toNat 0)))
  | .fq16 d a b half => (fq16 x d.toNat a.toNat b.toNat half n).1
  | _ => x

/-- Most free values that an instruction can draw. -/
def freeUse : Code → Nat
  | .setw _ | .sparam _ _ => 1
  | .tb .. => 257
  | .lka .. => 32
  | .fq16 .. => 8
  | _ => 0

/-- An instruction of a unit that has not faulted: the unit's change, the row it reads or writes, and the next instruction. -/
def unitEffect (s : State) (key : Nat) (x : UnitSt) (c : Code) : State :=
  match c with
  | .halt =>
    let k := bankStack key
    let f := inst (if bankChan key = 30 then BNK_READY_CH30 else BNK_READY_CH31) k
    let s := if bankChan key < 30 then s else wr0 s f (setBit (rd0 s f) (key % 32) true)
    let s := setUnit s key (clearUnit x)
    if 30 ≤ bankChan key then s else beginDue (runEnds s x) key
  | .rep a imm => setUnit s key (startRep x a (imm.toNat + 1))
  | .bnz a imm => setUnit s key (branch x a imm)
  | .waitin _ => setUnit s key (nextPc x)
  | .collect a k =>
    if 30 ≤ bankChan key then setUnit s key (nextPc x)
    else
      let q := bankStack key
      let s := setColl s q { collOf s q with ready := (collOf s q).ready ++ [key] }
      setUnit s key { x with offered := some (1024 * k.toNat + (sGet x a).toNat) }
  | .rld a k st =>
    let row := (windowRow s key x (st = 1) (sGet x a).toNat).getD 0
    setUnit (activate s key row) key (nextPc (rbWrite x k 0 (rowRead s key row)))
  | .rst a k st =>
    let row := (windowRow s key x (st = 1) (sGet x a).toNat).getD 0
    let s := if st = 1 then noteStaged s key [row] else s
    setUnit (rowWrite (activate s key row) key row (rbRead x k 0 1024)) key (nextPc x)
  | .rowop f d a b =>
    let at_ := fun r => (windowRow s key x false (sGet x r).toNat).getD 0
    let used := rowsUsed f (at_ d) (at_ a) (at_ b)
    let s := forEach used.eraseDups s fun s r => activate s key r
    setUnit (rowWrite s key (at_ d) (rowFnBytes s key f (at_ d) (at_ a) (at_ b))) key (nextPc x)
  | c => setUnit { s with freeCnt := s.freeCnt + freeUse c } key (nextPc (unitChange x s.freeCnt c))

/-! ### Running an instruction -/

/-- A channel's units own its banks: processor mode, or on a privileged shared channel a test program in DIAGNOSTIC mode (R212, R217); the
gather runs of a frame are `gatherAll`. -/
def unitsRun (s : State) (key : Nat) : Bool :=
  if 30 ≤ bankChan key then diagnostic s else bit (rd0 s (inst BNK_MODE_PROC (bankStack key))) (bankChan key)

/-- The program rows of a hub program on a privileged shared channel: the bank's mask area when it has one, else its compute
region (log entry 36). -/
def hubWindow (s : State) (key : Nat) : Nat × Nat :=
  match mapGetD s.maskAreas key [] with
  | [] => let b := 2048 * bound s (bankStack key) (bankChan key); (b, 98304 - b)
  | g :: gs => (2048 * g, 2048 * (gs.length + 1))

/-- The first instruction of a test program on a privileged shared channel is its launch through the MTP, which clears the unit's ready bit
(R217, R219). -/
def launched (s : State) (key : Nat) : State :=
  if 30 ≤ bankChan key && diagnostic s && !(unitOf s key).running then
    let f := inst (if bankChan key = 30 then BNK_READY_CH30 else BNK_READY_CH31) (bankStack key)
    let w := hubWindow s key
    setUnit (wr0 s f (setBit (rd0 s f) (key % 32) false)) key
      { unitOf s key with running := true, winBase := w.1, winRows := w.2, n := 1, limit := 2 ^ 64 }
  else s

/-- An instruction without the registers that its row operation ignores (R239). -/
def usedCode : Code → Code
  | .rowop .zero d _ _ => .rowop .zero d 0 0
  | .rowop .copy d a _ => .rowop .copy d a 0
  | .rowop .not d a _ => .rowop .not d a 0
  | c => c

/-- The unit executes this instruction next: it runs, is not held at COLLECT, and its code store holds the instruction at PC (R208). A test
program on a privileged shared channel is what its instructions say: no rule gives its place. -/
def executes (s : State) (key : Nat) (c : Code) : Bool :=
  let x := unitOf s key
  unitsRun s key && x.running && !x.dead && x.offered.isNone
    && (30 ≤ bankChan key || (decodeCode (mapGetD x.code x.pc 0)).map usedCode = some c)

/-- WAITIN stalls until its phase's input is delivered: of phase 0 by the run that the bound array begins (R209), of phase 1 by the
collections of phase 0. Waits cost no instruction clocks (R199, R202). -/
def waits (s : State) (key : Nat) (x : UnitSt) : Code → Bool
  | .waitin p => x.phase < p.toNat || (p = 0 && bankChan key < 30 && !s.runs.any (unitInRun x))
  | _ => false

/-- A unit executes an instruction: its clocks, then its effect or its fault. -/
def unitStep (s : State) (u : BankId) (c : Code) : State :=
  if !unitExists u then s
  else
    let key := bankOf u
    let s := launched s key
    if !executes s key c || waits s key (unitOf s key) c then s
    else
      let x := unitOf s key
      match faultOf s key x c with
      | some f => unitFails s key x f
      | none =>
        let n := codeClocks x c
        unitEffect (bump0 s (inst BNK_UNIT_CYC u.stack) n) key { x with clocks := x.clocks + n } c

/-! ### The instructions -/

def execNop (u : BankId) (s : State) : Out := act s fun s => unitStep s u .nop

def execHalt (u : BankId) (s : State) : Out := act s fun s => unitStep s u .halt

def execRep (u : BankId) (a : BitVec 4) (imm : BitVec 5) (s : State) : Out := act s fun s => unitStep s u (.rep a imm)

def execBnz (u : BankId) (a : BitVec 4) (imm : BitVec 9) (s : State) : Out := act s fun s => unitStep s u (.bnz a imm)

def execCollect (u : BankId) (a : BitVec 4) (k : BitVec 3) (s : State) : Out := act s fun s => unitStep s u (.collect a k)

def execWaitin (u : BankId) (phase : BitVec 1) (s : State) : Out := act s fun s => unitStep s u (.waitin phase)

def execSetw (u : BankId) (codeW : BitVec 3) (s : State) : Out := act s fun s => unitStep s u (.setw codeW)

def execSmov (u : BankId) (d : BitVec 4) (imm : BitVec 9) (s : State) : Out := act s fun s => unitStep s u (.smov d imm)

def execSadd (u : BankId) (d a b : BitVec 4) (s : State) : Out := act s fun s => unitStep s u (.sadd d a b)

def execSaddi (u : BankId) (d a : BitVec 4) (imm : BitVec 9) (s : State) : Out := act s fun s => unitStep s u (.saddi d a imm)

def execSmul (u : BankId) (d a b : BitVec 4) (s : State) : Out := act s fun s => unitStep s u (.smul d a b)

def execSparam (u : BankId) (d : BitVec 4) (imm : BitVec 9) (s : State) : Out := act s fun s => unitStep s u (.sparam d imm)

def execRld (u : BankId) (a : BitVec 4) (k : BitVec 3) (staging : Bool) (s : State) : Out :=
  act s fun s => unitStep s u (.rld a k (BitVec.ofBool staging))

def execRst (u : BankId) (a : BitVec 4) (k : BitVec 3) (staging : Bool) (s : State) : Out :=
  act s fun s => unitStep s u (.rst a k (BitVec.ofBool staging))

def execRwait (u : BankId) (k : BitVec 3) (s : State) : Out := act s fun s => unitStep s u (.rwait k)

def execVld (u : BankId) (d : BitVec 5) (a : BitVec 4) (k : BitVec 3) (inc : Bool) (s : State) : Out :=
  act s fun s => unitStep s u (.vld d a k (BitVec.ofBool inc))

def execVst (u : BankId) (d : BitVec 5) (a : BitVec 4) (k : BitVec 3) (inc : Bool) (s : State) : Out :=
  act s fun s => unitStep s u (.vst d a k (BitVec.ofBool inc))

def execVldx (u : BankId) (d : BitVec 5) (a : BitVec 4) (k : BitVec 3) (inc : Bool) (s : State) : Out :=
  act s fun s => unitStep s u (.vldx d a k (BitVec.ofBool inc))

def execTb (u : BankId) (d a : BitVec 5) (b : BitVec 4) (lane : BitVec 4) (mode : BitVec 2) (s : State) : Out :=
  act s fun s => unitStep s u (.tb d a b lane mode)

def execLka (u : BankId) (d : BitVec 5) (a b : BitVec 4) (k : BitVec 3) (inc set : Bool) (s : State) : Out :=
  act s fun s => unitStep s u (.lka d a b k (BitVec.ofBool inc) (BitVec.ofBool set))

def execIadd (u : BankId) (d a b : BitVec 5) (s : State) : Out := act s fun s => unitStep s u (.vec .iadd d a b)

def execIsha (u : BankId) (d a b : BitVec 5) (s : State) : Out := act s fun s => unitStep s u (.vec .isha d a b)

def execCvti (u : BankId) (d a : BitVec 5) (s : State) : Out := act s fun s => unitStep s u (.lane .cvti d a)

def execCvth (u : BankId) (d a : BitVec 5) (s : State) : Out := act s fun s => unitStep s u (.lane .cvth d a)

def execFadd (u : BankId) (d a b : BitVec 5) (s : State) : Out := act s fun s => unitStep s u (.vec .fadd d a b)

def execFsub (u : BankId) (d a b : BitVec 5) (s : State) : Out := act s fun s => unitStep s u (.vec .fsub d a b)

def execFmul (u : BankId) (d a b : BitVec 5) (s : State) : Out := act s fun s => unitStep s u (.vec .fmul d a b)

def execFfma (u : BankId) (d a b : BitVec 5) (s : State) : Out := act s fun s => unitStep s u (.vec .ffma d a b)

def execFbc (u : BankId) (d a : BitVec 5) (lane : BitVec 3) (s : State) : Out := act s fun s => unitStep s u (.fbc d a lane)

def execFred (u : BankId) (d a : BitVec 5) (s : State) : Out := act s fun s => unitStep s u (.lane .fred d a)

def execFexp2 (u : BankId) (d a : BitVec 5) (s : State) : Out := act s fun s => unitStep s u (.lane .fexp2 d a)

def execFrsq (u : BankId) (d a : BitVec 5) (s : State) : Out := act s fun s => unitStep s u (.lane .frsq d a)

def execFrcp (u : BankId) (d a : BitVec 5) (s : State) : Out := act s fun s => unitStep s u (.lane .frcp d a)

def execFsilu (u : BankId) (d a : BitVec 5) (s : State) : Out := act s fun s => unitStep s u (.lane .fsilu d a)

def execFq16 (u : BankId) (d a b : BitVec 5) (half : BitVec 1) (s : State) : Out := act s fun s => unitStep s u (.fq16 d a b half)

def execRowCopy (u : BankId) (d a : BitVec 4) (s : State) : Out := act s fun s => unitStep s u (.rowop .copy d a 0)

def execRowNot (u : BankId) (d a : BitVec 4) (s : State) : Out := act s fun s => unitStep s u (.rowop .not d a 0)

def execRowAnd (u : BankId) (d a b : BitVec 4) (s : State) : Out := act s fun s => unitStep s u (.rowop .and d a b)

def execRowOr (u : BankId) (d a b : BitVec 4) (s : State) : Out := act s fun s => unitStep s u (.rowop .or d a b)

def execRowXor (u : BankId) (d a b : BitVec 4) (s : State) : Out := act s fun s => unitStep s u (.rowop .xor d a b)

def execRowMaj3 (u : BankId) (d a b : BitVec 4) (s : State) : Out := act s fun s => unitStep s u (.rowop .maj3 d a b)

end Sys2Proof.Machine
end

