-- ==== Sys2Proof/Machine/Access.lean ====
section
/-! DEFINITION. Accesses beside the plan: the hub's ZERO (R240), the aperture (R304, R305, R382), memory-channel modes and the accesses that
they hold (R212 to R215), and the collector (R220 to R224). -/
namespace Sys2Proof.Machine

/-! ### Mode switches (R212 to R215) -/

/-- Memory channels 0 to 29 of a mask. -/
def modeChans (chans : Nat) : List Nat := (setBitsOf 32 chans).filter (· < 30)

/-- Memory channels of a stack that the shot list switches for a stage (R107). -/
def plannedChans (s : State) (run : RunIn) (k : Nat) : Nat :=
  ((s.plan.channels.find? fun c => c.1 = run.reel && c.2.1 = run.stage && c.2.2.1 = k).map (·.2.2.2)).getD 0

/-- The switch's point has come: Roll runs, and a wave has reached the layer of the stage (R107; DESIGN CHOICE, log entry 113). -/
def switchPoint (s : State) (run : RunIn) : Bool :=
  let r := reelOf s run.reel
  let layer := fun n => (r.stages[n]?).map (·.layer)
  let first := r.stages.findIdx fun g => some g.layer = layer run.stage
  s.frame.phase = .roll && s.frame.kind = .frame && (first = 0 || (reelMicros s run.reel).any fun m => hasRun s run.reel (first - 1) m)

/-- The channels that the shot list fixed for the stage switch to processor mode at their point, and their units take the run's program. -/
def switchProc (s : State) (k chans : Nat) (run : RunIn) : State :=
  let f := inst BNK_MODE_PROC k
  let cs := if switchPoint s run then (modeChans chans).filter fun c => bit (plannedChans s run k) c && !bit (rd0 s f) c else []
  let s := { s with plan := { s.plan with switches := s.plan.switches + cs.length } }
  let s := cs.foldl (fun s c => bump0 (wr0 s f (setBit (rd0 s f) c true)) (inst BNK_SWITCH_CNT k) 1) s
  match (reelOf s run.reel).stages[run.stage]? with
  | none => s
  | some g =>
    if g.progAddr = 0 then s
    else
      let h := progHead s g.progAddr
      forEach ((placements s h).filter fun p => bankStack p.key = k && cs.contains p.chan) s fun s p => latchUnit s run h p

/-- A switch to shared mode begins for the channels whose units have all halted; for the others it waits for their last HALT (R215). -/
def switchShared (s : State) (k chans : Nat) : State :=
  let cs := (modeChans chans).filter fun c => bit (rd0 s (inst BNK_MODE_PROC k)) c
  let s := (cs.filter fun c => !chanIdle s k c).foldl (fun s c => setDue s k c true) s
  enterShared s k (cs.filter (chanIdle s k))

/-! ### The collector (R220 to R224) -/

/-- Units of one run in a stack that take part in a unit's collection: its stage, expert and phase. -/
def collGroup (s : State) (key : Nat) : List (Nat × UnitSt) :=
  let x := unitOf s key
  s.units.filter fun u => bankStack u.1 = bankStack key && sameRun u.2 x && u.2.phase = x.phase
    && (if x.phase = 0 then u.2.p0 else u.2.p1)

/-- The collection that became ready first: the group whose last unit reached COLLECT earliest. -/
def readyGroup (s : State) (ready : List Nat) : Option (List (Nat × UnitSt)) :=
  (List.range ready.length).findSome? fun i =>
    let g := collGroup s (ready.getD i 0)
    if g ≠ [] && g.all fun u => (ready.take (i + 1)).contains u.1 then some g else none

def byUnit (us : List (Nat × UnitSt)) : List (Nat × UnitSt) := sortBy (fun a b => decide (a.2.unit < b.2.unit)) us

/-- The status beat of a unit (R224). -/
def statusBeat (amax : F32) (nan clamp : Nat) (wide : Bool) : Bytes :=
  leBytes 4 amax.toNat ++ leBytes 1 (min nan 255) ++ leBytes 1 wide.toNat ++ leBytes 2 clamp

/-- The status beat of one of `t` tokens: the unit's status when the collection is of one token; of more, only WIDE follows from the token's
codes, and its own AMAX, NAN and CLAMP are free values (log entry 63). -/
def tokenBeat (x : UnitSt) (n t i : Nat) (codes : Bytes) : Bytes :=
  if t = 1 then statusBeat x.amax x.nan x.clamp x.wide
  else
    let v := Config.free64 (n + 256 * x.unit + i)
    let wide := (List.range (codes.length / 2)).any fun c => 127 < (BitVec.ofNat 16 (leNat (slice codes (2 * c) 2))).toInt.natAbs
    statusBeat (v.setWidth 32) (v.toNat / 2 ^ 32 % 2 ^ 8) (v.toNat / 2 ^ 48) wide

/-- The beats of a unit in a collection of `t` tokens with `r` beats each; `back`: each share ends with the status beat. -/
def unitBeats (x : UnitSt) (n r t : Nat) (back : Bool) : Bytes :=
  let a := x.offered.getD 0
  (List.range t).flatMap fun i =>
    let share := memReadN x.rb (a + 8 * r * i) (8 * r)
    if back then share.take (8 * (r - 1)) ++ tokenBeat x n t i (share.take (8 * (r - 1))) else share

/-- First output element of a unit's data beats in its phase (R205, R221). -/
def unitOut (x : UnitSt) : Nat := if x.phase = 0 then x.out0 else x.out1

/-- Offset in area B of one BACK code: element `o` of token `i` of `n` (R209). -/
def backOff (n i o : Nat) : Nat := ((o / 128 * n + i) * 128 + o % 128) * 2

/-- One BACK code in area B of a phase-1 bank (R224). -/
def backByte (s : State) (key n i o : Nat) : Nat :=
  rowAddr s key (stageRow0 s key + rd0 s (inst BNK_STAGE_A_ROWS (bankStack key)) + backOff n i o / Config.rowBytes)
    (backOff n i o % Config.rowBytes)

/-- The BACK codes of one unit's beats go to area B of every phase-1 bank of the run in the stack. -/
def writeCodes (s : State) (x : UnitSt) (r t : Nat) (beats : Bytes) (banks : List Nat) : State :=
  let codes := 4 * (r - 1)
  let rows := fun s key => (List.range t).flatMap fun i => (List.range codes).map fun c =>
    stageRow0 s key + rd0 s (inst BNK_STAGE_A_ROWS (bankStack key)) + backOff x.n (x.collected + i) (unitOut x + c) / 1024
  let s := forEach banks s fun s key => noteStaged s key (rows s key).eraseDups
  forEach banks s fun s key => forEach (List.range t) s fun s i => forEach (List.range codes) s fun s c =>
    { s with mem := memWrite s.mem (backByte s key x.n (x.collected + i) (unitOut x + c)) ((beats.drop (8 * r * i + 2 * c)).take 2) }

/-- Phase 1 begins when every token of phase 0 is collected; WIDE is the OR of the run's. -/
def beginPhase1 (s : State) (x : UnitSt) (us : List (Nat × UnitSt)) : State :=
  let wide := us.any (·.2.wide)
  { s with units := s.units.map fun u =>
      if sameRun u.2 x then (u.1, { u.2 with phase := 1, wideRun := wide, collected := 0 }) else u }

/-- `vs` in place of the elements of `xs` from `off` on, none beyond its end. -/
def patchVec (xs : List F32) (off : Nat) (vs : List F32) : List F32 :=
  (xs.take off ++ vs ++ xs.drop (off + vs.length)).take xs.length

/-- The FP32 outputs of token `i` in a unit's beats. -/
def beatWords (beats : Bytes) (r i : Nat) : List F32 :=
  (List.range (2 * r)).map fun c => BitVec.ofNat 32 (leNat (slice beats (8 * r * i + 4 * c) 4))

/-- An OUT collection drains to the array bound to the stage's position: its beats are the outputs of their elements (R223). Elements beyond
the width of the stage's output are padding. -/
def drainOut (s : State) (run : BankRun) (width : Nat) (us : List ((Nat × UnitSt) × Bytes)) (r t : Nat) : State :=
  forEach us s fun s u => forEach (List.range t) s fun s i =>
    let x := u.1.2
    match run.toks[run.first * (if x.phase = 0 then 1 else 0) + x.collected + i]? with
    | none => s
    | some (tok, at_) =>
      match actGet s run.reel run.stage tok with
      | none => s
      | some v =>
        let ws := (beatWords u.2 r i).take (width - unitOut x)
        actPut s run.reel run.stage tok (patchVec v (at_ + unitOut x) ws)

/-- The status of the units that a BACK collection merges enters the stage's absmax record (R168, R224). -/
def mergeStatus (s : State) (x : UnitSt) (us : List (Nat × UnitSt)) : State :=
  let r := reelOf s x.reel
  let a := us.foldl (fun a u => { (noteQuant true x.expert a ⟨0, u.2.amax, false, false⟩) with
      clamp := satAdd 32 a.clamp u.2.clamp, nan := satAdd 32 a.nan u.2.nan }) (mapGetD r.amax x.stage amaxZero)
  let s := setReel s x.reel { r with amax := mapSet amaxZero r.amax x.stage a }
  bump0 (bump0 s STA_CLAMP_CNT ((us.map (·.2.clamp)).foldl (· + ·) 0)) STA_NAN_CNT ((us.map (·.2.nan)).foldl (· + ·) 0)

/-- What a BACK collection does beside its inbox: the codes go to area B, the status is merged and starts again, the next sub-run's input
follows the last token of one, and phase 1 the last of all (R210, R224). -/
def writeBack (s : State) (x : UnitSt) (us : List ((Nat × UnitSt) × Bytes)) (r t : Nat) : State :=
  let banks := (s.units.filter fun u => bankStack u.1 = bankStack (us.headD ((0, x), [])).1.1 && sameRun u.2 x && u.2.p1).map (·.1)
  let s := forEach us s fun s u => writeCodes s u.1.2 r t u.2 banks
  let s := mergeStatus s x (us.map (·.1))
  let s := forEach us s fun s u => setUnit s u.1.1 { unitOf s u.1.1 with amax := 0, clamp := 0, nan := 0 }
  let s := match s.runs.find? (unitInRun x) with
    | some q => if q.left ≠ [] && q.first + q.count ≤ x.collected + t then nextSub s q else s
    | none => s
  if x.n ≤ x.collected + t then beginPhase1 s x (us.map (·.1)) else s

/-- One collection runs. -/
def runCollection (s : State) (k : Nat) (group : List (Nat × UnitSt)) : State :=
  let us := byUnit group
  match us with
  | [] => s
  | (_, x) :: _ =>
    let (r, t) := collectShape s x
    let g := (reelOf s x.reel).stages[x.stage]?
    let h := progHead s (g.map (·.progAddr) |>.getD 0)
    let back := h.back.getD x.phase false
    let beats := us.map fun u => unitBeats u.2 s.freeCnt r t back
    let s := if back && t ≠ 1 then { s with freeCnt := s.freeCnt + 2 ^ 24 } else s
    let s := bump0 s (inst BNK_COLL_BEATS k) (us.length * (r * t))
    let keys := us.map (·.1)
    let s := setColl s k { collOf s k with
      inbox := memWrite [] 0 beats.flatten, ready := (collOf s k).ready.filter fun u => !keys.contains u }
    let s := forEach us s fun s u => setUnit s u.1 (nextPc { u.2 with offered := none, collected := u.2.collected + t })
    if back then writeBack s x (us.zip beats) r t
    else
      match s.runs.find? (unitInRun x) with
      | some q => drainOut s q (((g.map (·.outDim))).getD 0) (us.zip beats) r t
      | none => s

/-! ### The commands -/

/-- ZERO: a unit's row operation on its window, or the hub's on any row, held while the channel is in processor mode. -/
def execZero (by_ : ZeroBy) (s : State) : Out :=
  act s fun s =>
    match by_ with
    | .unit u d => unitStep s u (.rowop .zero d 0 0)
    | .hub u row =>
      if !unitExists u || Config.rowsPerBank ≤ row then s
      else if chanHeld s (bankOf u) then hold s (bankOf u) (.zero (.hub u row))
      else hubZero s (bankOf u) row

def execModeSwitchProc (stack : Nat) (chans : BitVec 32) (run : RunIn) (s : State) : Out :=
  act s fun s => if stack < 32 then switchProc s stack chans.toNat run else s

def execModeSwitchShared (stack : Nat) (chans : BitVec 32) (s : State) : Out :=
  act s fun s => if stack < 32 then switchShared s stack chans.toNat else s

/-- The collection that is ready first runs; its drain or write-back ends it (R222). -/
def execCollection (stack : Nat) (s : State) : Out :=
  act s fun s =>
    match readyGroup s (collOf s stack).ready with
    | some g => runCollection s stack g
    | none => s

/-- The hub polls BNK_READY; a poll changes nothing (R219). -/
def execReadyPoll (_stack : Nat) (s : State) : Out := act s fun s => s

/-- A read through BAR2: Unsupported Request in CONFIDENTIAL mode (R382), else the bytes, at once or when their channel leaves
processor mode. -/
def execApertureRead (x : Nat) (r : ReadIn) (s : State) : Out :=
  act s fun s =>
    if !apertureOpen s x r.len || confidential s then send s .unsupportedRequest
    else
      match rangeHeld s (apertureAddr s x) r.len with
      | some k => hold s k (.apertureRead x r)
      | none =>
        if s.apertureQ.any isAperture then { s with apertureQ := s.apertureQ ++ [.apertureRead x r] } else serveRead s x r

/-- A write through BAR2: discarded and logged as Unsupported Request in CONFIDENTIAL mode (R382). -/
def execApertureWrite (x : Nat) (data : Bytes) (s : State) : Out :=
  act s fun s =>
    if !apertureOpen s x data.length || confidential s then send s .unsupportedRequest
    else
      match rangeHeld s (apertureAddr s x) data.length with
      | some k => hold s k (.apertureWrite x data)
      | none =>
        if s.apertureQ.any isAperture then { s with apertureQ := s.apertureQ ++ [.apertureWrite x data] } else serveWrite s x data

end Sys2Proof.Machine
end

