-- ==== Sys2Proof/Machine/Ageing.lean ====
section
/-! DEFINITION. Ageing (18): the monitors (R463), the canary rows (R468), the margin planner with its ledger (R465 to R471), and the
array-core rail (R464). -/
namespace Sys2Proof.Machine

/-! ### Monitors (R463, R477) -/

/-- Refresh temperature of a stack: the higher of its two sensors. -/
def stackTemp (s : State) (k : Nat) : Nat := max (mapGetD s.ops.temps (88 + 2 * k) 0) (mapGetD s.ops.temps (89 + 2 * k) 0)

/-- The hottest sensor, the lowest index at a tie. -/
def hottestSensor (s : State) : Nat × Nat := s.ops.temps.foldl (fun m t => if m.2 < t.2 then t else m) (0, 0)

/-- A sensor's reading: its peak, the hottest sensor, the stack's refresh band, ALERT_N. -/
def readTemp (s : State) (sensor celsius : Nat) : State :=
  let peak := max celsius (mapGetD s.ops.peaks sensor 0)
  let s := { s with ops := { s.ops with temps := mapSet 0 s.ops.temps sensor celsius, peaks := mapSet 0 s.ops.peaks sensor peak } }
  let h := hottestSensor s
  let s := wr0 (wr0 s TMP_MAX_TEMP (byteMax h.2)) TMP_MAX_SENSOR h.1
  let s :=
    if sensor < 88 then s
    else
      let k := (sensor - 88) / 2
      settleBand (wr0 s (inst STK_REF_STS_TEMP k) (byteMax (stackTemp s k))) k false
  settleAlert s

/-- One report of a monitor; the worst of an epoch is kept. -/
def report (s : State) : Reading → State
  | .replica array ps =>
    if array < 64 then
      let w := match s.ops.slack with | some v => min v ps | none => ps
      { s with ops := { s.ops with slack := some w } }
    else s
  | .rosc osc ppm =>
    if osc < 36 && s.ops.rosc.natAbs < ppm.natAbs then { s with ops := { s.ops with rosc := ppm } } else s
  | .eye port lane mv =>
    if port < 4 && lane < 48 then
      { s with ops := { s.ops with eyes := mapPut s.ops.eyes port (min mv (mapGetD s.ops.eyes port mv)) } }
    else s
  | .pcieMargin v => if s.ops.marginHost then s else { s with ops := { s.ops with margin := v } }
  | .temp sensor celsius => if sensor < 152 then readTemp s sensor celsius else s
  | .power rail mv deciAmp =>
    if rail < 5 then { s with ops := { s.ops with rails := mapSet (0, 0) s.ops.rails rail (mv, deciAmp) } } else s

/-! ### Canary rows (R468) -/

/-- A bank has canary rows: memory channels 0 to 29, granule 47 compute and not retired. -/
def hasCanary (s : State) (key : Nat) : Bool :=
  bankChan key < 30 && decide (bound s (bankStack key) (bankChan key) ≤ 47) && granOf s key 47 ≠ .retired

/-- A read after `k` withheld windows. A margin for which no `k` is free of errors is below 2 and otherwise open (log entry 3). -/
def canaryRead (s : State) (key k : Nat) (errorFree : Bool) : State :=
  let put := fun (s : State) m => { s with ops := { s.ops with canary := mapPut s.ops.canary key m } }
  if errorFree then put s (max k (mapGetD s.ops.canary key 0))
  else if (mapGet s.ops.canary key).isSome then s
  else
    let (v, s) := draw s
    put s (v.toNat % 2)

/-- Retention margin of a stack: the least over its banks; none where no bank was read. -/
def retention (s : State) (k : Nat) : Option Nat :=
  (s.ops.canary.filter fun c => bankStack c.1 = k).foldl
    (fun m c => match m with | some v => some (min v c.2) | none => some c.2) none

/-! ### The ledger (R471) -/

def ledgerSeq (s : State) : Nat :=
  match s.ops.ledger with
  | [] => 0
  | b :: _ => (leNat (b.take 4) + 1) % 2 ^ 32

/-- The 64 bytes of a record. -/
def ledgerBytes (s : State) (action target band old new : Nat) : Bytes :=
  leBytes 4 (ledgerSeq s) ++ leBytes 4 (action + target * 2 ^ 8 + band * 2 ^ 16) ++ leBytes 8 (rd0 s HUB_UPTIME / 1000)
    ++ leBytes 8 (rd0 s HUB_TOD) ++ leBytes 4 (rd0 s AGE_STS_EPOCH) ++ leBytes 4 (hours s) ++ leBytes 4 old ++ leBytes 4 new
    ++ leBytes 4 (rd0 s AGE_LAST_SLACK_PS + rd0 s AGE_LAST_RET_K * 2 ^ 16)
    ++ leBytes 4 (rd0 s AGE_LAST_EYE_MV + rd0 s AGE_LAST_ROSC_PPM * 2 ^ 16) ++ List.replicate 16 0

def ageRecord : Nat := 5

/-- Appends a record; every action but RECORD counts. -/
def ledger (s : State) (action target band old new : Nat) : State :=
  let n := ledgerSeq s
  let s := { s with ops := { s.ops with ledger := (ledgerBytes s action target band old new :: s.ops.ledger).take 16384 } }
  let s := wr0 s AGE_LEDGER_SEQ n
  if action = ageRecord then s else bump0 s AGE_ACT_CNT 1

/-- A record with no value in mV, MHz or ms: OLD and NEW are open (log entry 3). -/
def ledgerOpen (s : State) (action target : Nat) : State :=
  let (v, s) := draw s
  ledger s action target 0 (v.toNat % 2 ^ 32) (v.toNat / 2 ^ 32)

/-! ### The planner (R465, R469, R470) -/

/-- What a trigger at its limit leaves: target (0 the array clock, 1 + k stack k), what the record names, value. -/
abbrev Limits := List (Nat × Nat × Nat)

def setBlock (s : State) (b : Block) : State := { s with ops := { s.ops with block := b } }

/-- GUARD_UP, else ACLK_DOWN. -/
def stepClock (s : State) : State × Limits :=
  let b := s.ops.block
  if !(s.ops.slack.any fun v => decide (v < (rd0 s AGE_LIM_SLACK_PS : Int))) then (s, [])
  else if b.guard + 5 ≤ 60 && coreNeed s b.ceiling (b.guard + 5) ≤ 850 then
    (ledger (setBlock s { b with guard := b.guard + 5 }) 1 0 0 b.guard (b.guard + 5), [])
  else if 2970 + 33 ≤ b.ceiling then
    (ledger (setBlock s { b with ceiling := b.ceiling - 33 }) 2 0 0 b.ceiling (b.ceiling - 33), [])
  else (s, [(0, 0, b.ceiling)])

/-- The planner's window of a band as decided, under the written one. -/
def decidedWin (s : State) (k b : Nat) : Nat :=
  min (bits (rd0 s (inst STK_REF_WIN k)) (8 * b) 8) (bits (mapGetD s.ops.block.wins k winsNone) (8 * b) 8)

/-- The band's window becomes `w`, and every higher band's the lesser of its own and `w`. -/
def shorten (s : State) (k band w : Nat) : Nat :=
  leNat ((List.range 8).map fun b => BitVec.ofNat 8
    (if b < band then bits (mapGetD s.ops.block.wins k winsNone) (8 * b) 8
     else if b = band then w else min (decidedWin s k b) w))

/-- REF_SHORTEN of one stack. -/
def stepRefresh (s : State) (k : Nat) : State × Limits :=
  let band := rd0 s (inst STK_REF_STS_BAND k)
  let old := decidedWin s k band
  if !((retention s k).any fun m => decide (m < rd0 s AGE_LIM_RET_MIN)) then (s, [])
  else if old / 2 < 8 then (s, [(1 + k, k, old)])
  else
    let b := s.ops.block
    let s1 := setBlock s { b with wins := mapPut b.wins k (shorten s k band (old / 2)) }
    (ledger s1 3 k band old (old / 2), [])

/-- LINK_EQ of one port: new presets are stored, and their values are open (log entry 3). -/
def stepLink (s : State) (p : Nat) : State :=
  if (mapGet s.ops.eyes p).any fun v => decide (v < rd0 s AGE_LIM_EYE_MV) then
    let (v, s) := draw s
    let b := s.ops.block
    let s := setBlock s { b with presets := mapPut b.presets p v.toNat }
    ledgerOpen (wr0 s AGE_STS_EQ_PENDING (setBit (rd0 s AGE_STS_EQ_PENDING) p true)) 4 p
  else s

/-- EXHAUSTED of one target; the event is raised once for it. -/
def exhaust (s : State) (l : Nat × Nat × Nat) : State :=
  let s := ledger (wr0 s AGE_STS_EXHAUSTED 1) 6 l.2.1 0 l.2.2 l.2.2
  if s.ops.exhausted.contains l.1 then settleAlert s
  else
    let s := { s with ops := { s.ops with exhausted := s.ops.exhausted ++ [l.1] } }
    raise s { cls := clCorrected, reason := 6, type := (pageName 0 0xD000).1 }

/-- AGE_LAST takes the worst values of the epoch; a monitor that reported nothing leaves its field. -/
def settleLast (s : State) : State :=
  let s := match s.ops.slack with | some v => wr0 s AGE_LAST_SLACK_PS (twos 16 v) | none => s
  let s := wr0 s AGE_LAST_ROSC_PPM (twos 16 s.ops.rosc)
  let ks := (List.range 32).filterMap (retention s)
  let s := match ks with | [] => s | k :: r => wr0 s AGE_LAST_RET_K (r.foldl min k)
  match s.ops.eyes.map (·.2) with
  | [] => s
  | v :: r => wr0 s AGE_LAST_EYE_MV (byteMax (r.foldl min v))

/-- An epoch ends: actions in the order of the table, the RECORD, exhausted targets. Decisions take effect at once while RUN is
clear (R466). -/
def endEpoch (s : State) : State :=
  let (s, l1) := stepClock (settleLast s)
  let (s, l2) := (List.range 32).foldl (fun a k => let r := stepRefresh a.1 k; (r.1, a.2 ++ r.2)) (s, ([] : Limits))
  let s := forEach (List.range 4) s stepLink
  let s := forEach (l1 ++ l2) (ledgerOpen s ageRecord 0) exhaust
  let s := if runSet s then s else forEach (List.range 32) (adoptPlanner s) fun s k => settleBand s k false
  let s := { s with ops := { s.ops with slack := none, rosc := 0, eyes := [], canary := [] } }
  wr0 s AGE_STS_EPOCH (rd0 s AGE_STS_EPOCH + 1)

/-! ### The array-core rail (R464, R500) -/

def coreRail (s : State) : State :=
  let v := (max 650 (min 850 (coreNeed s (rd0 s AGE_ACLK_MHZ) (rd0 s AGE_GUARD_MV)))).toNat
  send (wr0 s AGE_ACLK_VCORE_MV v) (.vout v)

/-! ### The commands -/

def execEpochEnd (s : State) : Out := act s endEpoch

def execCanaryRead (u : BankId) (k : Nat) (errorFree : Bool) (s : State) : Out :=
  act s fun s =>
    if unitExists u && 2 ≤ k && k ≤ 8 && hasCanary s (bankOf u) && !chanHeld s (bankOf u) then canaryRead s (bankOf u) k errorFree
    else s

def execMonitorReport (r : Reading) (s : State) : Out := act s fun s => report s r

def execCoreRailUpdate (s : State) : Out := act s coreRail

end Sys2Proof.Machine
end

