-- ==== Sys2Proof/Machine/Flash.lean ====
section
/-! DEFINITION. The flash translation layer (13): reads and read limits (R346, R348), wear levelling (R347) and grown bad blocks (R346).
A block's content is held as what the device keeps in each region (13, 17, 18, 19); here it has its region and its wear. A LUN is
numbered 16 x channel + 4 x target + LUN, and a block 65,536 x its LUN + its number in it (log entry 79). -/
namespace Sys2Proof.Machine

def flashBlock (s : State) (b : Nat) : FlashBlk := mapGetD s.flash b flashZero
def putBlock (s : State) (b : Nat) (x : FlashBlk) : State := { s with flash := mapPut s.flash b x }
def lunOf (b : Nat) : Nat := b / 2 ^ 16

/-- Blocks 0 to 63 of LUN 0 of target 0 on channels 0 and 1 lie outside the translation layer (R345). -/
def bootArea (b : Nat) : Bool := (lunOf b = 0 || lunOf b = 16) && b % 2 ^ 16 < 64

/-! ### The blocks of the layer -/

/-- Blocks of the translation layer that pass `p`, in ascending order. -/
def layerBlocks (s : State) (p : Nat → FlashBlk → Bool) : List Nat :=
  (s.flash.filter fun x => !x.2.bad && !bootArea x.1 && p x.1 x.2).map (·.1)

def freeBlocks (s : State) : List Nat := layerBlocks s fun _ x => x.region.isNone

/-- The block holds data of the layer. -/
def holdsData (s : State) (b : Nat) : Bool := !(flashBlock s b).bad && !bootArea b && (flashBlock s b).region.isSome

/-- SLC blocks of regions 1 to 5. -/
def slcBlocks (s : State) : List Nat := layerBlocks s fun _ x => x.region.any fun r => 1 ≤ r && r ≤ 5

/-- No block of `bs` comes before `b` by its erase count. -/
def firstBy (s : State) (before : Nat → Nat → Bool) (bs : List Nat) (b : Nat) : Bool :=
  bs.all fun x => !before (flashBlock s x).erases (flashBlock s b).erases

/-- The block of `bs` that comes first by its erase count: of several equal ones `want`, if it is one of them. -/
def pickBlock (s : State) (before : Nat → Nat → Bool) (bs : List Nat) (want : Nat) : Option Nat :=
  if bs.contains want && firstBy s before bs want then some want else bs.find? (firstBy s before bs)

/-- A write goes to the free block with the lowest erase count (R347). -/
def writeTarget (s : State) (want : Nat) : Option Nat := pickBlock s (· < ·) (freeBlocks s) want

/-! ### FLC_CAP, FLC_BAD and FLC_WEAR -/

def badBlocks (s : State) : Nat := (s.flash.filter (·.2.bad)).length

/-- The capacity is net of bad blocks, and at most 8,192 GiB (R344); the erase counts are those of the layer's good blocks. -/
def settleFlash (s : State) : State :=
  let es := (layerBlocks s fun _ _ => true).map fun b => (flashBlock s b).erases
  let s := wr0 s FLC_CAP_GIB (min 8192 ((s.ops.flashPart.1 - badBlocks s * s.ops.flashPart.2) / 2 ^ 30))
  let s := wr0 s FLC_BAD (min (badBlocks s) (2 ^ 16 - 1))
  wr0 (wr0 s FLC_WEAR_MAX_PE (min (es.foldl max 0) (2 ^ 16 - 1))) FLC_WEAR_MIN_PE (min (es.foldl min (es.headD 0)) (2 ^ 16 - 1))

/-! ### Moving data -/

/-- Block `b` takes the data of region `r`. -/
def fillBlock (s : State) (b : Nat) (r : Option Nat) : State := putBlock s b { flashBlock s b with region := r, reads := 0 }

/-- A block whose data has moved is erased and free. -/
def eraseBlock (s : State) (b : Nat) : State :=
  putBlock s b { flashBlock s b with erases := (flashBlock s b).erases + 1, reads := 0, region := none }

/-- The data of block `a` moves to block `b`. -/
def moveBlock (s : State) (a b : Nat) : State :=
  settleFlash (bump0 (fillBlock (eraseBlock s a) b (flashBlock s a).region) FLC_RELOC_CNT 1)

/-! ### Reads (R346, R348) -/

/-- Reads of a block that holds data are counted; a read that every offset failed was retried, too. -/
def readBlock (s : State) (b : Nat) (r : FlashRead) : State :=
  let s := putBlock s b { flashBlock s b with reads := (flashBlock s b).reads + r.reads }
  bump0 (bump0 s FLC_ECC_RETRY (max r.retried r.uncorr)) FLC_ECC_UNCORR r.uncorr

/-- The block has reached READ_LIMIT thousand reads, or its worst codeword the correction margin. -/
def rewriteDue (s : State) (b : Nat) (r : FlashRead) : Bool :=
  r.worst || rd0 s FLC_POLICY_READ_LIMIT * 1000 ≤ (flashBlock s b).reads

/-- Reads of a block with the rewrite that they bring about. -/
def takeReads (s : State) (b : Nat) (r : FlashRead) : State :=
  if !holdsData s b then s
  else
    let s := readBlock s b r
    match writeTarget s r.fresh with
    | some f => if rewriteDue s b r then moveBlock s b f else s
    | none => s

/-- At start-up the layer is mounted: blocks that it does not know yet are as their metadata shows, and every SLC block of regions 1 to
5 is read once (R348). -/
def mountFlash (s : State) (b : BootIn) : State :=
  let s := { s with ops := { s.ops with flashPart := (b.flashBytes, b.blockBytes) } }
  let s := forEach b.flashBlocks s fun s x => if (mapGet s.flash x.1).isSome then s else putBlock s x.1 x.2
  let s := forEach (slcBlocks s) s fun s k =>
    takeReads s k { mapGetD b.flashReads k ⟨k, 1, 0, 0, false⟩ with reads := 1 }
  settleFlash (wr0 s FLC_STS_READY 1)

/-! ### Wear levelling (R347) -/

def maxErases (s : State) (bs : List Nat) : Nat := bs.foldl (fun n b => max n (flashBlock s b).erases) 0

/-- The erase counts of a LUN differ by more than WEAR_GAP. -/
def worn (s : State) (lun : Nat) : Bool :=
  let bs := layerBlocks s fun b _ => lunOf b = lun
  bs.any fun b => (flashBlock s b).erases + rd0 s FLC_POLICY_WEAR_GAP < maxErases s bs

/-- The LUN's least-erased block with data, and its most-erased free block. -/
def wearSource (s : State) (lun src : Nat) : Option Nat :=
  pickBlock s (· < ·) (layerBlocks s fun b x => lunOf b = lun && x.region.isSome) (lun * 2 ^ 16 + src)

def wearTarget (s : State) (lun dst : Nat) : Option Nat :=
  pickBlock s (· > ·) (layerBlocks s fun b x => lunOf b = lun && x.region.isNone) (lun * 2 ^ 16 + dst)

/-! ### The commands -/

/-- A block is read up to its read limit or correction margin, and its data is rewritten to a fresh block. -/
def execReadLimitRewrite (block : Nat) (r : FlashRead) (s : State) : Out := act s fun s => takeReads s block r

/-- The least-erased block's data moves to the most-erased free block while the LUN's counts differ by more than WEAR_GAP. -/
def execWearLevel (lun src dst : Nat) (s : State) : Out :=
  act s fun s =>
    match wearSource s lun src, wearTarget s lun dst with
    | some a, some b => if worn s lun then moveBlock s a b else s
    | _, _ => s

/-- A failed erase or program retires the block as grown bad; its data is written elsewhere. -/
def execFlashProgramFail (m : FlashMove) (s : State) : Out :=
  act s fun s =>
    let r := if bootArea m.block then none else (flashBlock s m.block).region
    let s := putBlock s m.block { flashBlock s m.block with bad := true, region := none }
    settleFlash (if r.isNone then s else
      match writeTarget s m.fresh with
      | some b => fillBlock s b r
      | none => s)

end Sys2Proof.Machine
end

