-- ==== Sys2Proof/Machine/Boot.lean ====
section
/-! DEFINITION. Reset and start-up (16, 17, 19, 20): warm and cold reset (R491, R492), the pins (R502 to R505), the stages of R402 with
the base configuration and stored overlays (R456), START bundles (R494), and the recovery window (R493). -/
namespace Sys2Proof.Machine

/-! ### Reset (R491, R492) -/

/-- A level 2 or 3 reset: everything takes its reset value but what lies in flash — the ledger and its state block, the LOG region,
CONFIG and the boot copies, the retired-granule maps, the REELS files, the wear of its blocks — and the model's own queue and counter. -/
def resetDevice (s : State) : State :=
  { State.reset with
    pending := s.pending, sent := s.sent, freeCnt := s.freeCnt, flash := s.flash
    erl := { State.reset.erl with log := s.erl.log }
    grans := s.grans.filter fun g => g.2 = .retired
    boardRetired := s.boardRetired
    cfg := { cfgZero with stored := s.cfg.stored, flashBase := s.cfg.flashBase, copies := s.cfg.copies, files := s.cfg.files }
    ops := { opsZero with
      ledger := s.ops.ledger, block := { s.ops.block with powered := s.ops.block.powered + rd0 s HUB_UPTIME } }
    pins := { s.pins with boot := .chain } }

/-- A warm reset keeps the BOOT_SEL value sampled last (R502). -/
def warmReset (s : State) : State := resetDevice s

/-! ### Stages 1 and 2 (R402, R406 to R409) -/

/-- The boot ROM waits for an image through the recovery window. -/
def waitHost (s : State) : State := { wr0 s ERL_RCV_READY 1 with pins := { s.pins with boot := .hostWait } }

def stopBoot (s : State) : State := { s with pins := { s.pins with boot := .stopped } }

/-- A start-up error of the MTP. -/
def bootError (s : State) (reason : Nat) : State :=
  raise s { cls := clDevice, reason := reason, type := (pageName 0 0xB000).1 }

def bootIdentity (s : State) (b : BootIn) : State :=
  if !b.pufOk then bootError s 0x403
  else
    forEach (List.range 4) (wr0 s MTP_ID_OK 1) fun s i => wr0 s (fldAt MTP_ID i 8) (b.deviceId.toNat / 2 ^ (64 * i))

/-- Stage 1, beside the PCIe link. -/
def stage1 (s : State) (b : BootIn) : State :=
  let s := wr0 (wr0 (wr0 s PCI_LINK_WIDTH b.pcieWidth) PCI_LINK_L0P_WIDTH b.pcieWidth) PCI_LINK_SPEED b.pcieSpeed
  bootIdentity (extend s 1 1 b.romDigest) b

/-- Which firmware copy verifies: one that this boot found, or one that the recovery window has written. -/
def bootCopy (s : State) (b : BootIn) : Option Nat :=
  if b.copyA || bit s.cfg.copies 0 then some 1
  else if b.copyB || bit s.cfg.copies 1 then some 2
  else none

def measureFirmware (s : State) (b : BootIn) : State :=
  wr0 (extend (extend s 2 1 b.mtpDigest) 3 1 b.devDigest) MTP_FW_SVN b.svn.toNat

/-! ### Stage 3 (R456) -/

/-- Every field of every page instance. -/
def allHits : List Hit := pages.flatMap fun p => (List.range p.insts).flatMap fun n => pageHits (p.base + 0x1000 * n)

def isCfg (h : Hit) : Bool := h.spec.cfg = .named || h.spec.cfg = .named0

/-- The values of a base image that differ from the fields' own. -/
def baseValues (i : CfgImage) : Map Nat :=
  forEach (allHits.filter isCfg) [] fun m h =>
    match imageValue i.regs h.base h.fld with
    | some v => mapSet h.fld.rst m (regKey 0 h.fld) v
    | none => m

def loadBase (s : State) (i : CfgImage) : State :=
  let m := (i.mode.getD 0).toNat
  let s := { s with cfg := { s.cfg with
      base := baseValues i, baseMode := m, baseCosts := i.costs, costs := i.costs
      baseMach := forEach i.mach [] fun t x => mapPut t x.1 x.2
      baseCurves := forEach i.curves [] fun t c => mapPut t c.id c } }
  let s := forEach (i.mach.map (·.1)) s settleMach
  let s := forEach (i.curves.map (·.id)) s settleCurve
  let s := wr0 (wr0 s CFG_BASE_VERSION i.version.toNat) CFG_BASE_DIG (leNat ((digestBytes i.digest).take 8))
  extend (setMode s m) 4 1 i.digest

/-- The first overlay stored for a slot in flash order. -/
def storedFor (b : BootIn) (k : Nat) : Option CfgImage := (b.overlays.filter (·.startup)).find? (·.slot = k)

/-- A stored overlay that fails is left out (CFG_OVERLAY). -/
def loadStored (b : BootIn) (s : State) (k : Nat) : State :=
  match storedFor b k with
  | none => s
  | some i =>
    if overlayOk s i && i.imageLen ≤ 4096 && !modeDenied s i then extend (placeImage s k (some i) true) 5 1 i.digest
    else raise s { cls := clCorrected, reason := 5, type := (pageName 0 0x12000).1 }

/-- Every cfg field takes its effective value, in every function's copy. -/
def settleCfg (s : State) : State :=
  forEach (allHits.filter isCfg) s fun s h =>
    forEach (if h.spec.seen = .own then List.range 32 else [0]) s fun s fn => wr s fn h.fld (effective s h.base h.fld)

/-- RECOVERY mode opens the recovery window; the host selection forces it (R455, R493). -/
def openWindow (s : State) : State := if recovery s then wr0 s ERL_RCV_READY 1 else s

def stage3 (s : State) (b : BootIn) (i : CfgImage) (host : Bool) : State :=
  let s := loadBase s i
  let s := { s with cfg := { s.cfg with stored := b.overlays } }
  let s := settleCfg (forEach (List.range 8) s (loadStored b))
  openWindow (if host then setMode s (rd0 s CFG_BASE_MODE / 8 * 8 + 3) else s)

/-! ### START bundles (R494) -/

def bundleHdr : CmdHdr := ⟨0, 0, 0, false⟩

/-- Maps one object of a bundle and copies its data; the status of its failure. -/
def bundleObj (s : State) (x : BundleObj) : State × Option Nat :=
  let o := descObj x.desc x.stripe true
  let k := { objMapChecks s bundleHdr x.obj x.desc o with key := false }
  match refusal k with
  | some st => (s, some st)
  | none =>
    let s := objMapEffect s x.obj o
    if o.size * 2 ^ 21 < x.data.length then (s, some stExtent)
    else (uWrite s o.base x.data, if x.digestOk then none else some stBadField)

/-- The objects in record order, with those mapped. -/
def bundleObjs : List BundleObj → State → List Nat → State × List Nat × Option Nat
  | [], s, done => (s, done, none)
  | x :: xs, s, done =>
    match bundleObj s x with
    | (s, none) => bundleObjs xs s (x.obj :: done)
    | (s, some st) => (s, x.obj :: done, some st)

/-- The reel image of a bundle is loaded into its slot as REEL_LOAD does. -/
def bundleReel (s : State) (slot : Nat) (b : Bundle) : State × Option Nat :=
  match refusal (loadChecks s bundleHdr slot b.reelAddr.toNat) with
  | some st => (s, some st)
  | none =>
    let s := setReel s slot { reelZero with st := .loading, addr := b.reelAddr.toNat }
    let s := finishLoad s slot b.digest [] true
    let r := reelOf s slot
    if r.ready ≠ some stOk then (setReel s slot reelZero, r.ready)
    else if r.stages = [] then (setReel s slot reelZero, none)
    else (extend (setReel s slot { r with st := .resident, ready := none, bindDue := true }) 7 5 b.digest, none)

def loadBundle (s : State) (slot : Nat) (b : Bundle) : State × List Nat × Option Nat :=
  if !b.formOk then (s, [], some stBadField)
  else
    match bundleObjs b.objs s [] with
    | (s, done, some st) => (s, done, some st)
    | (s, done, none) => let (s, st) := bundleReel s slot b; (s, done, st)

/-- The bundle of a START record: the file that the recovery window wrote under its number, else the one that start-up finds for its
slot. -/
def bundleFor (s : State) (i : CfgImage) (bs : List Bundle) (slot : Nat) : Option Bundle :=
  match (i.start.find? (·.2 = slot)).bind fun r => mapGet s.cfg.files r.1 with
  | some b => some b
  | none => bs.find? (·.slot = slot)

/-- The START record of a slot. A failure unmaps what its bundle mapped and raises START_FAIL. -/
def startSlot (i : CfgImage) (bs : List Bundle) (s : State) (slot : Nat) : State :=
  let (s, done, st) := match bundleFor s i bs slot with
    | some b => loadBundle s slot b
    | none => (s, [], some stBadField)
  match st with
  | none => wr0 s CFG_START_LOADED (setBit (rd0 s CFG_START_LOADED) slot true)
  | some st =>
    let s := forEach (done.filter fun o => (objOf s o).st ≠ .free) s fun s o => unmapObject s o none false
    let s := wr0 s CFG_START_FAILED (setBit (rd0 s CFG_START_FAILED) slot true)
    raise s { cls := clCorrected, reason := 8, status := st, type := (pageName 0 0x12000).1 }

/-! ### Stage 4 -/

def loadMaps (s : State) (b : BootIn) : State :=
  let s := forEach b.retired s fun s g => setGran s g.1 g.2 .retired
  settleBoard { s with boardRetired := (s.boardRetired ++ b.boardRetired).eraseDups }

/-- An empty ledger starts with AGE_GUARD.INIT (R466, R471). -/
def loadLedger (s : State) : State :=
  let s := if s.ops.ledger = [] then
      { s with ops := { s.ops with block := { s.ops.block with guard := rd0 s AGE_GUARD_INIT } } }
    else s
  adoptPlanner s

def startBoard (s : State) (b : BootIn) : State :=
  let s := if b.boardOk then wr0 s BDM_STS_TRAINED 1
    else raise s { cls := clDevice, reason := 0x404, type := (pageName 0 0x8000).1 }
  mountFlash s b

/-- It records the mode, loads the maps and the ledger, and starts the blocks; a leader draws its torus key (R417). -/
def stage4 (s : State) (b : BootIn) (i : CfgImage) : State :=
  let s := startBoard (loadLedger (loadMaps (extend s 6 2 b.modeDigest) b)) b
  let s := { s with mem := [] }
  let s := settleBands (if leader s then setTorusId s b.torusId else s)
  let slots := (List.range 4).filter fun k => i.start.any (·.2 = k)
  let s := forEach slots s (startSlot i b.bundles)
  { s with pins := { s.pins with boot := .done } }

/-- Stages 2 to 4 once an image has verified; `host`: it came through the recovery window. -/
def runFirmwareStages (s : State) (b : BootIn) (host : Bool) : State :=
  let s := measureFirmware s b
  let i := s.cfg.flashBase.getD b.base
  let fallback := if host then openWindow (setMode s 3) else s
  if !i.sigOk then stopBoot (bootError fallback 0x401)
  else if !baseOk s i then stopBoot (bootError fallback 0x402)
  else stage4 (stage3 s b i host) b i

/-- The stages complete as far as each succeeds. -/
def bootStages (s : State) (b : BootIn) : State :=
  match s.pins.boot with
  | .chain =>
    let s := stage1 s b
    if s.pins.bootSel = 1 then waitHost s
    else match bootCopy s b with
      | some k => runFirmwareStages (wr0 s FLC_STS_BOOT_COPY k) b false
      | none => waitHost (bootError s 0x400)
  | .hostFw => runFirmwareStages s b true
  | _ => s

/-! ### The recovery window (R493) -/

/-- TARGETs that are accepted: 0 by the boot ROM, 1 to 4 by firmware in RECOVERY mode. -/
def targetOk (s : State) (t : Nat) : Bool :=
  if s.pins.boot = .hostWait then t = 0 else recovery s && 1 ≤ t && t ≤ 4

def rcvStatus (s : State) (st : Nat) : State := wr0 (wr0 s ERL_RCV_BUSY 0) ERL_RCV_STATUS st

/-- GO: an image of the TARGET in ERL_RCV_CTL is read; a TARGET that is not accepted is refused. -/
def rcvGo (s : State) : State :=
  if !flag s ERL_RCV_READY || flag s ERL_RCV_BUSY then s
  else if targetOk s (rd0 s ERL_RCV_TARGET) then wr0 s ERL_RCV_BUSY 1
  else rcvStatus s stDenied

/-- A recovery command with its outcome: it starts the read, unless a register write already has. -/
def rcvCmd (s : State) (t : Nat) (f : State → State) : State :=
  let mine := fun s => flag s ERL_RCV_BUSY && !s.cfg.rcvWriting && rd0 s ERL_RCV_TARGET = t
  let s := if !flag s ERL_RCV_READY || flag s ERL_RCV_BUSY then s else rcvGo (wr0 s ERL_RCV_TARGET t)
  if mine s then f s else s

/-- A verified image is being written; one that fails is not. -/
def rcvWrite (s : State) (t : Nat) (verified : Bool) (img : Option CfgImage) (file : Option Bundle) : State :=
  rcvCmd s t fun s =>
    if verified then { s with cfg := { s.cfg with rcvWriting := true, rcvImage := img, rcvFile := file } } else rcvStatus s stBadField

/-- What the window has written takes its place in flash. -/
def rcvStore (s : State) : State :=
  let t := rd0 s ERL_RCV_TARGET
  if t = 1 then { s with cfg := { s.cfg with copies := setBit s.cfg.copies 0 true } }
  else if t = 2 then { s with cfg := { s.cfg with copies := setBit s.cfg.copies 1 true } }
  else if t = 3 then { s with cfg := { s.cfg with flashBase := s.cfg.rcvImage } }
  else match s.cfg.rcvFile with
    | some b => { s with cfg := { s.cfg with files := mapPut s.cfg.files (rd0 s ERL_RCV_FILE) b } }
    | none => s

/-! ### The commands -/

/-- The host image runs in RECOVERY mode once BOOT_COMPLETE carries its chain on. -/
def execRunFirmware (verified : Bool) (s : State) : Out :=
  act s fun s => rcvCmd s 0 fun s =>
    if verified then { wr0 (rcvStatus s stOk) ERL_RCV_READY 0 with pins := { s.pins with boot := .hostFw } }
    else rcvStatus s stBadField

def execBootCopyA (verified : Bool) (s : State) : Out := act s fun s => rcvWrite s 1 verified none none

def execBootCopyB (verified : Bool) (s : State) : Out := act s fun s => rcvWrite s 2 verified none none

def execConfigBase (img : Option CfgImage) (s : State) : Out :=
  act s fun s => rcvWrite s 3 (img.any (·.sigOk)) img none

def execReelsFile (file : FileIn) (s : State) : Out := act s fun s => rcvWrite s 4 file.verified none file.bundle

/-- The write is read back and verified. -/
def execRecoveryDone (ok : Bool) (s : State) : Out :=
  act s fun s =>
    if s.cfg.rcvWriting then
      let s := rcvStatus (if ok then rcvStore s else s) (if ok then stOk else stBadField)
      { s with cfg := { s.cfg with rcvWriting := false, rcvImage := none, rcvFile := none } }
    else s

/-- A write to ERL_RESET.KEY: 0x5752 starts a warm reset, any other value is dropped with DENIED. -/
def execErlResetKey (key : W16) (s : State) : Out :=
  act s fun s => if key = 0x5752 then warmReset s else dropWrite s 0 0x11000 stDenied ERL_RESET_KEY

def execPwrOkRise (s : State) : Out := actAlways s fun s => { s with pins := { s.pins with pwrOk := true } }

/-- Power removal: only flash survives, and a thermal trip ends. -/
def execPwrOkFall (s : State) : Out :=
  actAlways s fun s =>
    { resetDevice s with pins := ⟨false, false, true, s.pins.bootSel, .chain, .idcode⟩ }

/-- A rising edge with PWR_OK high samples BOOT_SEL, whose reserved values are flash, and starts the chain; an EXTEST that is
loaded returns to BYPASS. -/
def execPerstRise (bootSel : BitVec 2) (s : State) : Out :=
  actAlways s fun s =>
    if !s.pins.pwrOk || s.pins.perstN then s
    else
      { s with pins := { s.pins with
          perstN := true, bootSel := if bootSel = 1 then 1 else 0, boot := .chain
          tap := if s.pins.tap = .extest then .bypass else s.pins.tap } }

/-- A cold reset. -/
def execPerstFall (s : State) : Out :=
  actAlways s fun s => { resetDevice s with pins := { s.pins with perstN := false, boot := .chain } }

def execBootComplete (b : BootIn) (s : State) : Out := act s fun s => bootStages s b

end Sys2Proof.Machine
end

