-- ==== Sys2Proof/Machine/Power.lean ====
section
/-! DEFINITION. Power and heat (18, 20): the governor (R473 to R476), the thermal trip (R479), the regulator's alert (R500), MR4 of board
memory (R339), telemetry (R481) and STATS_SNAPSHOT (R482). -/
namespace Sys2Proof.Machine

/-! ### The governor (R473, R474) -/

/-- The lesser of the written limit and the limit of the hottest sensor, in W. -/
def effectiveLimit (s : State) : Nat :=
  min (rd0 s PWR_LIMIT_WATTS) (curveAt s limitByTemp (hottest s 0 152)).toNat

/-- Raises a level below 15. -/
def raiseLevel (s : State) (f : Fld) : State := if rd0 s f < 15 then bump0 (wr0 s f (rd0 s f + 1)) PWR_RAISE_CNT 1 else s

def lowerLevel (s : State) (f : Fld) : State := wr0 s f (rd0 s f - 1)

/-- Raises the level of each domain above its budget, as exact products with 1,000. -/
def throttle (s : State) (e pHub pArray pStack : Nat) : State :=
  let avail : Int := e - pHub
  let share := rd0 s PWR_SPLIT_ARRAY
  let s := if avail * share < pArray * 1000 then raiseLevel s PWR_LVL_A else s
  if avail * (1000 - share : Int) < pStack * 1000 then raiseLevel s PWR_LVL_S else s

/-- A sample at or below the limit less the hysteresis; after a calm millisecond both levels fall by one. -/
def relax (s : State) : State :=
  if s.ops.calm < 100 then { s with ops := { s.ops with calm := s.ops.calm + 1 } }
  else { lowerLevel (lowerLevel s PWR_LVL_A) PWR_LVL_S with ops := { s.ops with calm := 1 } }

/-- The array clock and the activation limit follow the levels. -/
def followLevels (s : State) : State :=
  let faw := (curveAt s fawByLevel (rd0 s PWR_LVL_S)).toNat
  forEach (List.range 32) (settleClock s) fun s k => wr0 s (inst STK_ACT_FAW k) faw

/-- One sample of 10 µs: energy, the levels, what follows them. -/
def sample10 (s : State) (pHub pArray pStack : Nat) : State :=
  let total := pHub + pArray + pStack
  let o := s.ops
  let s := { s with ops := { o with sumHub := o.sumHub + pHub, sumArray := o.sumArray + pArray, sumStack := o.sumStack + pStack
                                    samples := o.samples + 1, energy := o.energy + total } }
  let s := wr0 s PWR_ENERGY (s.ops.energy / 100)
  let e := effectiveLimit s
  let s := wr0 s PWR_LVL_EFF_W e
  let s :=
    if e < total then throttle { s with ops := { s.ops with calm := 0 } } e pHub pArray pStack
    else if total + rd0 s PWR_HYST_W ≤ e then relax s
    else { s with ops := { s.ops with calm := 0 } }
  settleAlert (followLevels s)

/-! ### Telemetry (R481) and snapshots (R482) -/

/-- A renewal: averages over the millisecond, then the block. -/
def renew (s : State) : State :=
  let s := if s.ops.samples = 0 then s else wr0 s PWR_NOW (powerAverage s)
  let s := { s with ops := { s.ops with sumHub := 0, sumArray := 0, sumStack := 0, samples := 0, telSeq := (s.ops.telSeq + 1) % 65536 } }
  { s with ops := { s.ops with telemetry := telemetryBlock s } }

/-- The block is written at the Wrap of this frame, where the command completes. -/
def applyStats (h : CmdHdr) (n : BitVec 6) (dest : W64) (s : State) (c : CmdId) : State :=
  guarded s c { denied := h.fn ≠ 0, badField := h.rsv || dest.toNat % 4096 ≠ 0, limit := 60 < n.toNat } fun s =>
    { s with ops := { s.ops with stats := s.ops.stats ++ [(c, n.toNat, dest.toNat)] } }

/-! ### The commands -/

def execGovernorSample (pHub pArray pStack : Nat) (s : State) : Out := act s fun s => sample10 s pHub pArray pStack

def execTelemetryRenew (s : State) : Out := act s renew

def execStatsSnapshot (h : CmdHdr) (ledgerN : BitVec 6) (dest : W64) (s : State) : Out :=
  act s fun s => submit s h (.statsSnapshot h ledgerN dest) 0x40 none (applyStats h ledgerN dest)

/-- The highest refresh-rate step read since reset (R339). -/
def execMr4Read (step : BitVec 2) (s : State) : Out :=
  act s fun s => wr0 s BDM_STS_MR4_MAX (max (rd0 s BDM_STS_MR4_MAX) step.toNat)

/-- Every clock stops, and THERM_TRIP_N stays low until power is removed. -/
def execThermTrip (s : State) : Out := act s fun s => { s with pins := { s.pins with thermTripN := false } }

/-- A fall of VR_ALERT_N: counted, and a DEVICE-class error. -/
def execVrAlert (s : State) : Out :=
  act s fun s => raise (bump0 s PWR_VR_ALERT_CNT 1) { cls := clDevice, reason := 0x405, type := (pageName 0 0xE000).1 }

end Sys2Proof.Machine
end

