-- ==== Sys2Proof/Machine/Views.lean ====
section
/-! DEFINITION. What a register read returns (R430, R431, R437, R439): fields held in the state, fields that show other state, the
header of a page, and the call-sheet window (R58, R384). -/
namespace Sys2Proof.Machine

/-! ### Tables seen through a selector -/

/-- The 64 bytes of an object-table entry (R289). -/
def objBytes (o : Obj) : Bytes :=
  leBytes 8 (objCode o.st + o.cls * 2 ^ 3 + o.prot.toNat * 2 ^ 6 + o.layout * 2 ^ 7 + o.home.toNat * 2 ^ 9 + o.shared.toNat * 2 ^ 10
      + o.tenant * 2 ^ 11 + o.hdim * 2 ^ 16 + o.nps * 2 ^ 18)
    ++ leBytes 8 o.base ++ leBytes 8 (o.size + o.chMask * 2 ^ 32) ++ leBytes 8 o.stMask ++ leBytes 8 o.digestAddr
    ++ leBytes 8 (o.masterAddr + o.masterHost.toNat * 2 ^ 63) ++ leBytes 8 o.stripeAddr ++ leBytes 8 o.claims

/-- Word `i` of a run of bytes. -/
def wordOf (b : Bytes) (i : Nat) : Nat := leNat ((b.drop (8 * i)).take 8)

/-- A virtual function sees objects of its tenant. -/
def objShown (s : State) (fn i : Nat) : Nat :=
  let o := objOf s (rd s fn UMR_OBJ_SEL)
  if o.st = .free || (fn ≠ 0 && (o.shared || some o.tenant ≠ tenantOf s fn)) then 0 else wordOf (objBytes o) i

def locCode : Loc → Nat
  | .none => 0 | .stack => 1 | .board => 2

def xentWord (e : XEnt) : Nat :=
  locCode e.loc + e.bcopy.toNat * 4 + e.dirty.toNat * 8 + e.copying.toNat * 16 + e.obj * 2 ^ 5 + e.sg * 2 ^ 21 + e.bg * 2 ^ 27

/-- Remaps of the selected bank (R288). -/
def remapWord (rs : List (Nat × Nat)) : Nat :=
  ((rs.take 4).zipIdx.map fun p => (p.1.1 + p.1.2 * 2 ^ 6 + 2 ^ 12) * 2 ^ (13 * p.2)).foldl (· + ·) 0

def machWord (r : MachRec) : Nat := r.state + r.event * 2 ^ 8 + r.next * 2 ^ 16 + r.action * 2 ^ 24 + r.param * 2 ^ 32

def curveWord (c : CurveRec) (i : Nat) : Nat :=
  if i = 0 then c.id + c.pts.length * 2 ^ 16 + c.linear.toNat * 2 ^ 24
  else match c.pts[i - 1]? with
    | some p => twos 32 p.1 + twos 32 p.2 * 2 ^ 32
    | none => 0

def costBytes (c : CostRec) : Bytes := leBytes 4 c.key ++ leBytes 4 c.base ++ leBytes 4 c.per ++ leBytes 4 c.clock

/-- Word `i` of the selected effective record: a MACHINE record, a CURVE's point, a COST record. -/
def tableShown (s : State) (i : Nat) : Nat :=
  let id := rd0 s CFG_TBL_ID
  let n := rd0 s CFG_TBL_INDEX
  if rd0 s CFG_TBL_TYPE = 2 then
    match (mapGetD s.cfg.mach id [])[n]? with
    | some r => if i = 0 then machWord r else 0
    | none => 0
  else if rd0 s CFG_TBL_TYPE = 3 then
    match mapGet s.cfg.curves id with
    | some c => if i = 0 then curveWord c n else 0
    | none => 0
  else if rd0 s CFG_TBL_TYPE = 4 then
    match (s.cfg.costs.filter (·.table = id))[n]? with
    | some c => wordOf (costBytes c) i
    | none => 0
  else 0

/-! ### Capacities (R234, UMR_CAP) -/

/-- Stack granules of one stack that satisfy `p`. -/
def countGrans (k : Nat) (p : Nat → Nat → Bool) : Nat :=
  (List.range 1024).foldl (fun n b => n + ((List.range 48).filter (p (k * 1024 + b))).length) 0

def inCompute (s : State) (key g : Nat) : Bool := bound s (bankStack key) (bankChan key) ≤ g

def maskGran (s : State) (key g : Nat) : Bool := granOf s key g = .mask || granOf s key g = .maskRetiring

def stackFree (s : State) : Nat :=
  (List.range 32).foldl (fun n k => n + countGrans k fun key g => granFree s key g true || granFree s key g false) 0

def boardFree (s : State) : Nat :=
  boardTotal s - s.boardRetired.length - ((boardHeld s ++ s.boardRetiring).eraseDups.filter fun b => !s.boardRetired.contains b).length

/-! ### Fields -/

/-- FRM_STS.PHASE: a frame's phases, and Slate and Wrap of a maintenance tick. -/
def phaseCode (s : State) : Nat :=
  match s.frame.phase with
  | .none => 0
  | .slate => 1
  | .roll => if s.frame.kind = .frame then 2 else 0
  | .wrap => 3

/-- Index of a field within its register array. -/
def elem (f first : Fld) (stride : Nat) : Nat := (f.addr - first.addr) / stride

/-- Fields of the stack pages that show other state. -/
def stackView (s : State) (f : Fld) (k : Nat) : Option Nat :=
  let is := fun g => f = inst g k
  if is STK_REF_WIN then some (winInForce s k)
  else if is STK_REMAP then some (remapWord (mapGetD s.remap (k * 1024 + rd0 s (inst STK_REMAP_SEL k)) []))
  else if is RGN_CAP_PROT then some (countGrans k fun key g => !inCompute s key g && granOf s key g ≠ .retired)
  else if is RGN_CAP_COMP then
    some (countGrans k fun key g => inCompute s key g && granOf s key g ≠ .retired && !stagingGran s key g && !maskGran s key g)
  else if is RGN_CAP_RETIRED then some (countGrans k fun key g => granOf s key g = .retired)
  else if is RGN_CAP_RETIRING then some (countGrans k fun key g => granOf s key g = .retiring || granOf s key g = .maskRetiring)
  else if is RGN_CAP_STAGING then some (countGrans k (stagingGran s))
  else if is RGN_CAP_MASK then some (countGrans k (maskGran s))
  else none

/-- Fields of the single pages that show other state. -/
def pageView (s : State) (fn : Nat) (f : Fld) : Option Nat :=
  if f = FRM_STS_PHASE then some (phaseCode s)
  else if f = UMR_CAP_STACK_FREE then some (stackFree s)
  else if f = UMR_CAP_BOARD_FREE then some (boardFree s)
  else if f = UMR_OBJ_CNT then some (s.objs.filter (·.2.st ≠ .free)).length
  else if f = UMR_XT_DATA then some (xentWord (xentOf s (rd0 s UMR_XT_SEL)))
  else if f = BDM_ZS_CNT then some (32 * boardTotal s - s.boardUsed.length)
  else if f = PCI_FN_STS_FUNC then some fn
  else if f = PCI_FN_STS_TENANT then some (rd0 s (fldAt PCI_FN_TENANT fn 8))
  else if f = PCI_FN_STS_BOUND then some (rd0 s (fldAt PCI_FN_BOUND fn 8))
  else if f = PCI_FN_STS_STRIKING then some (rd0 s (fldAt PCI_FN_STRIKING fn 8))
  else if f = PCI_FN_STS_CONF then some (confidential s).toNat
  else if f = PCI_FN_STS_TDISP then some (rd0 s (fldAt PCI_FN_TDISP fn 8))
  else if f = AGE_HOURS then some (hours s)
  else if f = PWR_STATE then some (powerState s)
  else if f = TMP_SENS_DATA_TEMP then some (mapGetD s.ops.temps (rd0 s TMP_SENS_SEL) 0)
  else if f = TMP_SENS_DATA_PEAK then some (mapGetD s.ops.peaks (rd0 s TMP_SENS_SEL) 0)
  else none

/-- The table slot as function `fn` reads its status: a virtual function reads zeros for a slot its tenant does not own (R517). -/
def slotShown (s : State) (fn n : Nat) : TblSlot :=
  if fn = 0 || tenantOf s fn = some (rd0 s (slotOwnFld (n / 16) (n % 16))) then mapGetD s.tblSlots n tblZero else tblZero

/-- Fields of the register arrays that show other state. -/
def arrayView (s : State) (fn : Nat) (f : Fld) : Option Nat :=
  let at_ := fun (g : Fld) n => f.lsb = g.lsb && f.width = g.width && g.addr ≤ f.addr && f.addr < g.addr + 8 * n
  if at_ UMR_OBJ_DATA 8 then some (objShown s fn (elem f UMR_OBJ_DATA 8))
  else if at_ XPD_SLOT_GEN 64 then some (slotShown s fn (elem f XPD_SLOT_GEN 8)).gen
  else if at_ XPD_SLOT_LOADED 64 then some (slotShown s fn (elem f XPD_SLOT_LOADED 8)).loaded.toNat
  else if at_ ERL_FL_DATA 8 then some (wordOf (s.erl.log.getD (rd0 s ERL_FL_SEL) []) (elem f ERL_FL_DATA 8))
  else if at_ CFG_TBL_DATA 2 then some (tableShown s (elem f CFG_TBL_DATA 8))
  else none

/-- Value that a read of a field returns: of an RWT field the pending one (R5). In CONFIDENTIAL mode the absmax fields read 0 (R169). -/
def viewField (s : State) (fn : Nat) (h : Hit) : Nat :=
  let v :=
    match pendingOf s (copyOf fn h.spec) h.fld with
    | some w => some w.value
    | none =>
    if 0x80000 ≤ h.base && h.base < 0x100000 then stackView s h.fld (h.base / 0x1000 % 32)
    else match pageView s fn h.fld with
      | some v => some v
      | none => arrayView s fn h.fld
  if h.spec.acc = .wo || (h.page.type = 0x11 && confidential s && 0x100 ≤ h.fld.addr % 0x1000) then 0
  else v.getD (rd s (copyOf fn h.spec) h.fld) % 2 ^ h.fld.width

/-! ### The page header -/

def hasRwt (p : Page) : Bool := p.specs.any fun sp => sp.acc = .rwt

/-- The block holds work in progress. -/
def blockBusy (s : State) (p : Page) (base : Nat) : Bool :=
  let n := (base - p.base) / 0x1000
  if p.type = 0x20 then flag s (inst DMA_STS_BUSY n)
  else if p.type = 0x0C then flag s MTP_MBX_BUSY
  else if p.type = 0x12 then flag s ERL_RCV_BUSY
  else if p.type = 0x13 then flag s CFG_STAGE_BUSY
  else if p.type = 0x26 then flag s (inst RGN_STS_CONVERTING n)
  else false

/-- The committed schedule gives the block work (log entry 41): frame, call sheet, shot list and sampler in every frame and maintenance
tick; stack blocks while entries are planned; an array while entries of its reel are. -/
def blockPlanned (s : State) (p : Page) (base : Nat) : Bool :=
  let n := (base - p.base) / 0x1000
  s.frame.phase ≠ .none &&
    (if [2, 3, 4, 5].contains p.type then true
     else if p.type = 0x22 then
       flag s (inst ARY_BIND_BOUND n) && s.plan.planned.any fun q => (entryOf s q.entry).reel = rd0 s (inst ARY_BIND_REEL n)
     else 0x23 ≤ p.type && s.plan.planned ≠ [])

/-- BLK_STS.STATE. -/
def blockState (s : State) (p : Page) (base : Nat) : Nat :=
  if s.pins.boot ≠ .done || (p.type = 0x20 && rd0 s (hdr BLK_ENABLE base) = 0) then 0
  else if s.frame.halted && s.frame.phase = .none then 3
  else if blockPlanned s p base || blockBusy s p base then 2
  else 1

/-- Header words that no field holds, at in-page offset `r`. -/
def headerView (s : State) (fn : Nat) (p : Page) (base r : Nat) : Nat :=
  let mine := s.shadow.filter fun w => w.fn = fn && w.page = base
  if r = 0 then p.type + (pageName fn base).2 * 2 ^ 16 + 2 ^ 32
  else if r = 8 then (hasRwt p).toNat + p.window.isSome.toNat * 2 + p.softReset.toNat * 4
  else if r = 0x18 then blockState s p base + (blockBusy s p base).toNat * 4
  else if r = 0x38 then
    (decide (mine ≠ [])).toNat + (decide (mine ≠ []) && flag s FRM_CTL_GATE).toNat * 4 + min mine.length 255 * 2 ^ 8
  else 0

/-! ### The call-sheet window (R58, R60, R384, R429) -/

/-- An entry as function `fn` reads it. -/
def entryShown (s : State) (fn e : Nat) : Bytes :=
  let x := entryOf s e
  let b := entryBytes x
  if fn ≠ 0 then (if entryDenied s fn e then List.replicate 128 0 else b)
  else if confidential s && x.st ≠ .free && functionOf s x.tenant ≠ 0 then
    b.take 2 ++ List.replicate 110 0 ++ (b.drop 112).take 8 ++ List.replicate 8 0
  else b

/-- Entry and offset that a window offset reaches. -/
def sheetAt (s : State) (fn off : Nat) : Option (Nat × Nat) :=
  if fn = 0 then
    if 0x100000 ≤ off && off < 0x200000 then some ((off - 0x100000) / 128, off % 128) else none
  else if 0x8000 ≤ off && off < 0x10000 then some (rd s fn PCI_CSV_FIRST + (off - 0x8000) / 128, off % 128)
  else none

/-- The 8 bytes that a read of function `fn` at its offset returns. -/
def readReg (s : State) (fn off : Nat) : Nat :=
  match sheetAt s fn off with
  | some (e, o) => wordOf (entryShown s fn e) (o / 8)
  | none =>
    match reachOff fn off with
    | none => 0
    | some a =>
      match pageAt a with
      | none => 0
      | some (p, base) =>
        ((hitsAt a).filter (sees fn)).foldl (fun v h => v + viewField s fn h * 2 ^ h.fld.lsb) (headerView s fn p base (a % 0x1000 / 8 * 8))

/-! ### RC fields (R5) -/

/-- A read of a register clears its RC fields; TMP_SENS_DATA.PEAK lies with the selected sensor. -/
def clearRc (s : State) (fn : Nat) (h : Hit) : State :=
  if h.spec.acc ≠ .rc || !sees fn h then s
  else if h.fld = TMP_SENS_DATA_PEAK then { s with ops := { s.ops with peaks := mapDel s.ops.peaks (rd0 s TMP_SENS_SEL) } }
  else wr s (copyOf fn h.spec) h.fld h.fld.rst

/-- Function `fn` reads the 8 bytes at its offset. -/
def readRegister (s : State) (fn off : Nat) : State :=
  let v := readReg s fn off
  let s := match sheetAt s fn off, reachOff fn off with
    | none, some a => forEach (hitsAt a) s fun s h => clearRc s fn h
    | _, _ => s
  send s (.readData (leBytes 8 v))

def execReadToClear (fn off : Nat) (s : State) : Out := act s fun s => if fn < 32 then readRegister s fn off else s

end Sys2Proof.Machine
end

