-- ==== Sys2Proof/Machine/RegCmds.lean ====
section
/-! DEFINITION. Register writes (17, 02): a write is taken field by field (R508), each field checked, dropped, made pending or given its
effect; the rows of single registers; ring reads that fail and records that were held (15, 19). -/
namespace Sys2Proof.Machine

/-! ### Run control (R36, R437, R485) -/

/-- FRM_CTL.RUN takes a value; setting it resets the count of failed frames. -/
def setRun (s : State) (v : Nat) : State :=
  let s := wr0 s FRM_CTL_RUN v
  if v = 1 then wr0 s ERL_FAIL_RUN 0 else s

/-- Some page holds HALT_AT_TICK set. -/
def haltAsked (s : State) : Bool :=
  pages.any fun p => (List.range p.insts).any fun n => flag s (hdr BLK_HALT (p.base + 0x1000 * n))

/-- HALT_AT_TICK takes a value: the device halts at once, and is released at a tick. -/
def setHalt (s : State) (f : Fld) (v : Nat) : State :=
  let s := wr0 s f v
  if v = 1 then { s with frame := { s.frame with halted := true } } else s

/-! ### Effects of single fields -/

/-- BLK_ERR bits are cleared; with the last of them the capture ends (R433), and on a BNK page the fault it showed. -/
def clearErr (s : State) (fn base v : Nat) : State :=
  let old := rd s fn (hdr BLK_ERR base)
  let new := old - (old &&& v)
  let s := wr s fn (hdr BLK_ERR base) new
  if new ≠ 0 then s
  else
    let s := wr s fn (hdr BLK_INFO_VALID base) 0
    if 0xC0000 ≤ base && base < 0xE0000 then
      let k := (base - 0xC0000) / 0x1000
      { s with colls := mapSet collZero s.colls k { mapGetD s.colls k collZero with faulted := false } }
    else s

/-- A vector's mask changes; a pending message is sent when it clears (R393). -/
def setMask (s : State) (fn : Nat) (f : Fld) (v : Nat) : State :=
  let s := wr s fn f v
  let n := (f.addr - MSIX_MASK.addr) / 16
  if v = 0 && bit (rd s fn MSIX_PBA) n then vector (wr s fn MSIX_PBA (setBit (rd s fn MSIX_PBA) n false)) fn n else s

/-- An RW field takes a changed value that has passed its checks. -/
def takeRw (s : State) (fn : Nat) (h : Hit) (v : Nat) : State :=
  match h.spec.tag with
  | .run => setRun s v
  | .tod => { wr0 s HUB_TOD v with cfg := { s.cfg with todSet := true } }
  | .haltAtTick => setHalt s h.fld v
  | .lnkEn => setLnkEn s ((h.base - 0x30000) / 0x1000) (v = 1)
  | .rgnBound => startConversion s ((h.base - 0xE0000) / 0x1000) ((h.fld.addr - h.base - 0x100) / 8 * 8 + h.fld.lsb / 8) v
  | .msixMask => setMask s fn h.fld v
  | t => putField s fn t h.fld v

/-- What the values of a soft reset bring with them: HUB_TOD is unwritten again (R442), a port whose EN changes takes the event (R357),
and ALERT_N follows (R478). -/
def softResetFollows (old s : State) (base : Nat) : State :=
  let s := if base = 0 then { s with cfg := { s.cfg with todSet := false } } else s
  let en := inst LNK_CTL_EN ((base - 0x30000) / 0x1000)
  let s :=
    if 0x30000 ≤ base && base < 0x34000 && flag old en != flag s en then
      trainEvent s ((base - 0x30000) / 0x1000) { event := if flag s en then 1 else 11 }
    else s
  settleAlert s

/-- A WO field is written with a value. -/
def takeWo (s : State) (fn : Nat) (h : Hit) (v : Nat) : State :=
  match h.spec.tag with
  | .softReset => wr0 (softResetFollows s (softReset s h.base) h.base) (hdr BLK_RESETTING h.base) 1
  | .discard => dropPending s fn h.base
  | .xqResume => wr s fn (sibling XPD_Q_HALTED XPD_Q_RESUME h.fld) 0
  | .mbxOp => if flag s MTP_MBX_BUSY then dropWrite s fn h.base stBadState MTP_MBX_OP else mbxStart s v
  | .mbxSeq => if flag s MTP_MBX_BUSY then s else wr0 s MTP_MBX_CMD_SEQ v
  | .retrain =>
    if runSet s then dropWrite s fn h.base stDenied h.fld else startRetrain s ((h.base - 0x30000) / 0x1000)
  | .rcvGo => rcvGo s
  | .stageGo => stageGo s none
  | .resetKey => warmReset s
  | _ => s

/-- A write to a WO field acts when it writes 1; the mailbox command and the reset key act at any value. -/
def woActs (h : Hit) (v : Nat) : Bool := v ≠ 0 || h.spec.tag = .mbxOp || h.spec.tag = .mbxSeq || h.spec.tag = .resetKey

/-- The status that drops a changed field: of its own checks, or of R509. -/
def dropStatus (s : State) (c : Nat) (fn : Nat) (h : Hit) (v : Nat) : Option Nat :=
  match fieldStatus s fn h v with
  | some st => some st
  | none =>
    match companion h with
    | some (f, lo, hi) =>
      let k := nextValue s c f
      if v = 1 && (k < lo || hi < k) then some stBadState else none
    | none => none

/-- One field of a write by function `fn` (R508). -/
def takeField (s : State) (fn : Nat) (h : Hit) (v : Nat) : State :=
  let c := copyOf fn h.spec
  let v := v % 2 ^ h.fld.width
  let checked := fun (f : State → State) =>
    match dropStatus s c fn h v with
    | some st => dropWrite s fn h.base st h.fld
    | none => f s
  if fn ≠ 0 && h.spec.seen = .shared then s
  else match h.spec.acc with
    | .ro | .rc => s
    | .w1c => if h.spec.tag = .blkErr then clearErr s c h.base v
        else settleAlert (wr s c h.fld (rd s c h.fld - (rd s c h.fld &&& v)))
    | .wo => if woActs h v then checked fun s => takeWo s c h v else s
    | .rw => if v = rd s c h.fld && h.spec.tag ≠ .tod then s else checked fun s => takeRw s c h v
    | .rwt => if v = nextValue s c h.fld then s else checked fun s => pend s c h.base h.spec.tag h.fld v

/-! ### A whole write -/

/-- Fields that act on, or are checked against, the other fields of their register. An enable field that is written 0 comes first:
the size beside it is checked with the ring as this write leaves it (R385, R508; log entry 115). -/
def lateField (v : Nat) (h : Hit) : Bool :=
  ((companion h).isSome && bits v h.fld.lsb h.fld.width ≠ 0) || (h.spec.acc = .wo && h.spec.tag ≠ .mbxSeq)

/-- Function `fn` writes the 8 bytes at its offset. Call-sheet windows, reserved offsets and fields that it does not see ignore it. -/
def writeReg (s : State) (fn off : Nat) (v : Nat) : State :=
  match sheetAt s fn off, reachOff fn off with
  | none, some a =>
    let hs := (hitsAt a).filter (sees fn)
    forEach (hs.filter (!lateField v ·) ++ hs.filter (lateField v)) s fun s h => takeField s fn h (bits v h.fld.lsb h.fld.width)
  | _, _ => s

/-- Function `fn` writes one field. -/
def writeField (s : State) (fn : Nat) (f : Fld) (v : Nat) : State :=
  match (hitsAt f.addr).find? (·.fld.lsb = f.lsb) with
  | some h => if fn < 32 && sees fn h && (fn = 0 || h.page.window.isSome) then takeField s fn h v else s
  | none => s

/-- A header field of the page at `page`. -/
def writeHeader (s : State) (fn : Nat) (f : Fld) (page v : Nat) : State :=
  match pageAt page with
  | some (_, base) => writeField s fn (hdr f base) v
  | none => s

/-! ### Rings (R389, R393) -/

/-- A failed read stops the ring; HEAD stays. -/
def stopRing (s : State) (fn q : Nat) : State :=
  if rd s fn (sqFld PCI_SQ_EN q) = 0 then s
  else
    let s := bump (wr s fn (sqFld PCI_SQ_EN q) 0) fn PCI_FETCH_ERR 1
    let s := { s with ring := s.ring.filter fun c => !inRing fn q c }
    raise s { cls := if fn = 0 then clFrame else clTenant, reason := 0x203, type := 0x0B, inst := fn
              tenant := if fn = 0 then none else tenantOf s fn }

/-- The hold-off ends: records written during it are covered by one raise. -/
def endHoldoff (s : State) (fn : Nat) : State :=
  let x := fnOf s fn
  let s := setFn s fn { x with holdoff := false, covered := false }
  if x.holdoff && x.covered then eventVector s fn else s

/-- The HEAD field of a ring. -/
def headField : HeadRing → Fld
  | .output r => fldAt SMP_OR_HEAD r 32
  | .event => PCI_EVR_HEAD
  | .errorLog => ERL_RING_HEAD

/-! ### The commands -/

def execRun (v : Bool) (s : State) : Out := act s fun s => writeField s 0 FRM_CTL_RUN v.toNat

def execGate (v : Bool) (s : State) : Out := act s fun s => writeField s 0 FRM_CTL_GATE v.toNat

/-- `page` is the page's offset in the register space. -/
def execDiscard (fn page : Nat) (s : State) : Out := act s fun s => writeHeader s fn BLK_DISCARD page 1

def execSoftReset (page : Nat) (s : State) : Out := act s fun s => writeHeader s 0 BLK_SOFT_RESET page 1

def execSoftResetDone (page : Nat) (s : State) : Out :=
  act s fun s =>
    match pageAt page with
    | some (_, base) => wr0 s (hdr BLK_RESETTING base) 0
    | none => s

def execBlkCtlEnable (page : Nat) (v : Bool) (s : State) : Out := act s fun s => writeHeader s 0 BLK_ENABLE page v.toNat

def execHaltAtTick (page : Nat) (v : Bool) (s : State) : Out := act s fun s => writeHeader s 0 BLK_HALT page v.toNat

def execBlkErrClear (fn page : Nat) (mask : W32) (s : State) : Out := act s fun s => writeHeader s fn BLK_ERR page mask.toNat

def execRegisterWrite (fn off : Nat) (v : W64) (s : State) : Out :=
  act s fun s => if fn < 32 then writeReg s fn off v.toNat else s

def execHubTodWrite (v : W64) (s : State) : Out := act s fun s => writeField s 0 HUB_TOD v.toNat

def execSqDoorbell (fn ring : Nat) (tail : W32) (s : State) : Out :=
  act s fun s => if ring < 4 then writeField s fn (sqFld PCI_SQ_TAIL ring) tail.toNat else s

def execRingHeadWrite (fn : Nat) (ring : HeadRing) (head : W32) (s : State) : Out :=
  act s fun s =>
    match ring with
    | .output r => if r < 64 then writeField s fn (headField ring) head.toNat else s
    | _ => writeField s fn (headField ring) head.toNat

def execCsvFirstWrite (fn : Nat) (first : BitVec 13) (s : State) : Out :=
  act s fun s => writeField s fn PCI_CSV_FIRST first.toNat

def execRingFetch (fn ring : Nat) (s : State) : Out := act s fun s => if fn < 32 && ring < 4 then stopRing s fn ring else s

/-- Held records are written in order while their ring has room. -/
def execHeldRecordFlush (fn : Nat) (errorLog : Bool) (s : State) : Out :=
  act s fun s =>
    if errorLog then flushErrors s.erl.hold s
    else if fn < 32 then flushEvents (fnOf s fn).hold s fn
    else s

def execEventHoldoff (fn : Nat) (s : State) : Out := act s fun s => if fn < 32 then endHoldoff s fn else s

end Sys2Proof.Machine
end

