-- ==== Sys2Proof/Machine/Frame.lean ====
section
/-! DEFINITION. The frame (02): what a tick is and what it does (R24, R40 to R43), Slate (R38, R59, R180), Roll and Wrap (R37, R39, R47 to
R53), slips closed late (R51, R52), the tick sources (R29, R34), and participation (R35, R36). -/
namespace Sys2Proof.Machine

def setFrame (s : State) (f : FrameSt → FrameSt) : State := { s with frame := f s.frame }

/-! ### What the next tick is (R40, R41) -/

/-- The cutoff of the coming tick, 2 us before it, has passed: OPEN_CUTOFF has come, or the frame clock says so. -/
def cutoffPassed (s : State) : Bool := s.frame.next.isSome || decide (rd0 s FRM_PERIOD * 1000 < rd0 s FRM_NOW + 2000)

/-- A WRAP_DONE of the open frame is outstanding at the leader. -/
def peersOut (s : State) : Bool := s.frame.participants.any (!·.done)

/-- The device's own frame or maintenance tick is open. -/
def ownOpen (s : State) : Bool := s.frame.phase ≠ .none || !s.frame.wrapDone

def leaderKind (s : State) : TickKind :=
  if !slatesRun s || ownOpen s || peersOut s || flag s FRM_CTL_GATE then .skipped
  else if runSet s then .opening
  else .maintenance

/-- A follower with RUN set whose latest WRAP_DONE said so. -/
def candidate (s : State) : Bool := s.frame.takesPart && runSet s

/-- A follower's tick. After a frame of its leader's, a clear OPEN flag means a tick that the leader skips, or that its RUN is clear:
no packet tells, and a free value stands for it (log entry 3). -/
def followerKind (s : State) : TickKind × State :=
  match s.frame.beacon with
  | none => (.skipped, s)
  | some b =>
    if !slatesRun s || ownOpen s then (.skipped, s)
    else if !candidate s then (.maintenance, s)
    else if b.opens then (.opening, s)
    else if s.frame.kind = .frame then
      let (v, s) := draw s
      (if bit v.toNat 0 then .skipped else .maintenance, s)
    else (.maintenance, s)

/-- The tick's kind (R40, R46): at a leader, a WRAP_DONE that came after the cutoff leaves the tick skipped, and RUN and GATE count as
they stand at the tick. -/
def tickKind (s : State) : TickKind × State :=
  if leader s then (if s.frame.doneLate || s.frame.peerLate then .skipped else leaderKind s, s) else followerKind s

/-! ### Skipped ticks (R24, R51, R52) -/

/-- What a slipped frame writes after its slip says so: SLIPPED of a token record, SLIPPED in place of OK (R49). -/
def markSlipped : WrapItem → WrapItem
  | .token fn ring lo hi => .token fn ring (if bit lo 22 then lo else lo + 2 ^ 22) hi
  | .event fn e => .event fn (if e.kind = 1 && e.status = stOk then { e with status := stSlipped } else e)
  | i => i

/-- HOST_WAIT is charged once a frame: the time by which Wrap's wait carried WRAP_DONE past the cutoff, which lies 3 us behind W+20 us and
is otherwise a free value (R52, log entries 3, 27). -/
def chargeHost (s : State) : State :=
  if s.frame.report.charges.hostWait ≠ 0 then s
  else
    let (v, s) := draw s
    let c := { s.frame.report.charges with hostWait := 3000 + v.toNat % 2 ^ 32 }
    setFrame s fun f => { f with report := { f.report with charges := c } }

/-- LEVEL moves again for a frame that slips after its Wrap moved it: WEIGHT_LATE is among its causes then if it was charged (R101). -/
def moveLevelLate (s : State) : State :=
  if s.frame.report.charges.weightLate = 0 then s
  else moveLevel (wr0 (setFrame s fun f => { f with calm := f.oldCalm }) SHL_ADM_LEVEL s.frame.oldLevel)

/-- A frame whose Roll was complete in time closes late, and slips (R51, R52); `causes`: bits of the causes charged. -/
def slipLate (s : State) (causes : Nat) : State :=
  let s := moveLevelLate (setFrame { s with wrapQ := s.wrapQ.map markSlipped } fun f => { f with slipped := true })
  let s := recordSlip s (primaryCause s.frame.report.charges) causes 0
  if !flag s FRM_CTL_SLIP_INT_EN then s
  else
    let e := slipEvent s causes
    if s.wrapQ = [] then postEvent s 0 e else { s with wrapQ := s.wrapQ ++ [.event 0 e] }

/-- A frame that slipped in Roll closes later still: the causes of its closing join those it has, and where another one is now charged with
the most delay the slip counts under that one (R51). -/
def slipAgain (s : State) (causes : Nat) : State :=
  let old := rd0 s FRM_LAST_SLIP_CAUSE
  let cause := primaryCause s.frame.report.charges
  let s := wr0 (wr0 s FRM_LAST_SLIP_SKIPPED (min s.frame.skipped 255)) FRM_LAST_CAUSES ((rd0 s FRM_LAST_CAUSES * 2 ||| causes) / 2)
  if cause = old then s
  else
    let cnt := fun c => fldAt FRM_SLIP_CNT (c - 1) 8
    bump0 (wr0 (wr0 s FRM_LAST_SLIP_CAUSE cause) (cnt old) (rd0 s (cnt old) - 1)) (cnt cause) 1

/-- What a tick that a finished Roll's frame did not close by says of it: HOST_WAIT where Wrap waited on a ring and the device's own WRAP_DONE
missed the cutoff (`late`), LINK_WAIT where the device was ready and a peer's WRAP_DONE missed it. -/
def noteLate (s : State) (late peerWait : Bool) : State :=
  if s.frame.kind ≠ .frame || !s.frame.rollDone then s
  else
    let host := late && s.frame.waited
    let peer := !late && peerWait
    let s := if host then chargeHost s else s
    let causes := causeMask s.frame.report.charges ||| (if peer then 2 ^ 5 else 0)
    if s.frame.slipped then (if late || peerWait then slipAgain s causes else s)
    else if host || peer then slipLate s causes
    else s

def skipTick (s : State) : State :=
  let late := ownOpen s || s.frame.doneLate
  let peerWait := if leader s then peersOut s || s.frame.peerLate else candidate s && s.frame.beacon.any (!·.opens)
  let s := bump0 s FRM_SKIP_CNT 1
  let s := setFrame s fun f => { f with
    skipped := if late || peerWait then f.skipped + 1 else f.skipped
    ticksSinceDue := if f.dueSeen then f.ticksSinceDue + 1 else 0
    stallTicks := if f.hostWaited then f.stallTicks + 1 else 0
    participants := f.participants.map fun p => if p.done then p else { p with missing := p.missing + 1 } }
  noteLate s late peerWait

/-! ### An opening or a maintenance tick (R41, R43, R309) -/

/-- Shadowed writes, the planner's values and overlay content take effect, unless the gate is held (R43, R46, R460, R466). -/
def takeShadows (s : State) : State :=
  if flag s FRM_CTL_GATE then s else applyOverlays (adoptPlanner (commitShadows s))

/-- The submission doorbells and the TAILs of enabled queues are latched. -/
def latchTails (s : State) : State :=
  let s := forEach (List.range 32) s fun s fn =>
    setFn s fn { fnOf s fn with latched := (List.range 4).map fun q => rd s fn (sqFld PCI_SQ_TAIL q) }
  forEach ((List.range 32).flatMap fun fn => (List.range 8).map fun q => (fn, q)) s fun s p =>
    if rd s p.1 (xqFld XPD_Q_EN p.2) = 1 then
      { s with xqLatched := mapSet 0 s.xqLatched (xqKey p.1 p.2) (rd s p.1 (xqFld XPD_Q_TAIL p.2)) }
    else s

/-- Devices that join, and nothing outstanding (R35). -/
def joinPeers (f : FrameSt) : FrameSt :=
  { f with
    participants := f.participants.map (fun p => { p with done := false, missing := 0 })
      ++ (f.joining.filter fun d => !f.participants.any (·.dev = d)).map fun d => ⟨d, false, 0⟩
    joining := [] }

/-- The frame or maintenance tick opens. -/
def startFrame (s : State) (maint : Bool) : State :=
  let s := setFrame s fun f =>
    { (if maint then f else joinPeers f) with
      phase := .slate, kind := if maint then .maint else .frame, slateClosed := false, applied := 0, dueSeen := false
      rollDone := false, slipped := false, failed := false, hostWaited := false, waited := false, readAt := 0, interrupted := false, wrapDone := false
      skipped := 0, ticksSinceDue := 0, stallTicks := 0, report := reportZero, served := [] }
  if maint then s
  else
    let s := if leader s then wr0 s FRM_FRAME (rd0 s FRM_FRAME + 1) else s
    wr0 s OPEN_TICK (rd0 s FRM_TICK)

/-! ### Slate -/

/-- The late action of an entry whose step was late (R86). -/
def lateAction (s : State) (e : Nat) : State :=
  let x := entryOf s e
  let s := setEntry s e { x with lateDue := false }
  if x.st ≠ .feeding && x.st ≠ .decoding then s
  else if x.lateAct = 1 then setEntry s e { entryOf s e with prio := x.prio - 1 }
  else if x.lateAct = 2 then noteEnd (finishEntry (endFeed s e stAborted) e 5) e
  else s

def lateActions (s : State) : State := forEach ((s.entries.filter (·.2.lateDue)).map (·.1)) s lateAction

/-- A ring command is taken by Slate, or stays in its ring. -/
def applyRing (s : State) (c : Instr) : State :=
  match c with
  | .admitEntry h e img ue => submit s h c 0x01 (some e.toNat) (applyAdmit h e img ue)
  | .feed h e ptr len go n set => submit s h c 0x02 (some e.toNat) (applyFeed h e ptr len go n set)
  | .draft h e n ts => submit s h c 0x03 (some e.toNat) (applyDraft h e n ts)
  | .release h e => submit s h c 0x04 (some e.toNat) (applyRelease h e)
  | .cancel h e => submit s h c 0x05 (some e.toNat) (applyCancel h e)
  | .setPrio h e p => submit s h c 0x06 (some e.toNat) (applySetPrio h e p)
  | .setDeadline h e a n d => submit s h c 0x07 (some e.toNat) (applySetDeadline h e a n d)
  | .pageEdit h e i n => submit s h c 0x08 (some e.toNat) (applyPageEdit h e i n)
  | .fence h => submit s h c 0x09 none (applyFence h)
  | .reelLoad h k a => submit s h c 0x10 none (applyReelLoad h k a)
  | .reelUnload h k => submit s h c 0x11 none (applyReelUnload h k)
  | .objMap h o d st => submit s h c 0x20 none (applyObjMap h o d st)
  | .claim h o b => submit s h c 0x21 none (applyPlace true h o b)
  | .unclaim h o b => submit s h c 0x21 none (applyPlace false h o b)
  | .objUnmap h o => submit s h c 0x22 none (applyObjUnmap h o)
  | .tableLoad h q k g a img => submit s h c 0x30 none (applyTableLoad h q k g a img)
  | .overlayApply h k src => submit s h c 0x31 none (applyOverlay h k src)
  | .statsSnapshot h n d => submit s h c 0x40 none (applyStats h n d)
  | _ => s

/-- Place of a waiting command: function, then ring; a ring's own order stays. -/
def ringKey (c : Instr) : List Nat :=
  match cmdHdrOf c with
  | some h => [h.fn, h.ring]
  | none => [32, 0]

/-- The commands below the latched doorbells are applied in order (R38). -/
def readRings (s : State) : State :=
  forEach (sortBy (fun a b => lexLt (ringKey a) (ringKey b)) s.ring) { s with ring := [] } applyRing

/-- A page of an incoming list lies in a KV object of the tenant that serves the reel, inside its portion (R181). A reserved PSZ, 9 to 15, of a
page that is not ABSENT counts as lying outside, and faults the entry with DENIED (DESIGN CHOICE, log entry 110). -/
def pageServes (s : State) (x : Entry) (p : KvPage) : Bool :=
  let r := reelOf s x.reel
  let o := objOf s p.obj
  p.absent || ((kvObjs s x.tenant (reelAttn r).hdim (reelNps r)).contains p.obj && p.psz ≤ 8
    && p.rowOff + pageUnits o p ≤ portionUnits o)

/-- The copies of an entry with a pending edit swap; dropped pages are struck (R181, R183, R185). The entry of a dropped page in the outgoing
copy becomes what it is in the incoming one, ABSENT with the incoming PSZ (DESIGN CHOICE, log entry 110). -/
def swapEntry (s : State) (e : Nat) : State :=
  let x := entryOf s e
  let ps := (plRead s x (1 - x.plSel) x.pages.length).map pageOfWord
  let x := { x with edit := 0 }
  if ps.any (fun p => !pageServes s x p) then faultEntry (setEntry s e x) e stDenied
  else
    let gone := (x.pages.zip ps).zipIdx.filter fun q => !q.1.1.absent && q.1.2.absent
    let old := gone.map (·.1.1)
    let next := (x.pages.zip ps).map fun q => if !q.1.absent && q.2.absent then ⟨0, q.2.psz, true, 0⟩ else q.2
    let strike : Strike :=
      { owner := .pages e x.tenant, tenant := x.tenant, rows := old.flatMap (pageRows s)
        runs := old.map fun p => (p.obj, p.rowOff, pageUnits (objOf s p.obj) p), revoke := false }
    let s := forEach gone s fun s q =>
      let w := leBytes 8 (pageWord ⟨0, q.1.2.psz, true, 0⟩)
      uWrite (uWrite s (plAddr x 0 q.2) w) (plAddr x 1 q.2) w
    let s := if old = [] then s else { s with strikes := s.strikes ++ [strike] }
    bump0 (setEntry s e { x with plSel := 1 - x.plSel, pages := next }) CSH_EDIT_SWAPPED 1

/-- The edits of earlier Slates swap; those of this Slate wait for the next. -/
def swapLists (s : State) : State :=
  let s := forEach ((s.entries.filter (·.2.edit = 1)).map (·.1)) s swapEntry
  { s with entries := s.entries.map fun p => (p.1, if p.2.edit = 2 then { p.2 with edit := 1 } else p.2) }

/-- A maintenance Slate plans nothing, and its drafts go (R41); the pool rows of the last frame stay known to a revocation (R250). -/
def planNothing (s : State) : State :=
  let pool := s.plan.pool
  let s := openPlan (forEach ((s.entries.filter (·.2.drafts ≠ [])).map (·.1)) s dropDrafts)
  { s with plan := { s.plan with pool := pool } }

/-- Slate closes: the swap, the snapshot, the plan with its page appends, the PRES rows (R59, R180, R249). -/
def closeSlate (s : State) : State :=
  let s := swapLists s
  let s := if s.frame.kind = .frame then buildPlan s else planNothing s
  let s := forEach (s.plan.planned.map (·.entry)) s writePres
  setFrame (settleEntries s) fun f => { f with slateClosed := true }

/-- Memory channels whose units a failed frame stopped take a switch to shared mode whose point has passed (R215). -/
def takeDueSwitches (s : State) : State :=
  forEach (s.switchDue.flatMap fun p => (List.range 30).filterMap fun c => if bit p.2 c then some (bankKey p.1 c 0) else none) s beginDue

/-- The tick opens a frame or a maintenance tick, and Slate begins. -/
def openTick (s : State) (maint : Bool) (i : TickIn) : State :=
  let s := bindReels (takeShadows { s with erl := { s.erl with corrected := 0 } })
  let s := latchTails (startFrame (settleBands s) maint)
  let s := takeDueSwitches s
  let s := createWaiting s
  let s := forEach ((s.trust.revokes.filter (!·.slateSeen)).map (·.tenant)) s revokeSlate
  let s := readRings (if maint then s else lateActions s)
  if i.close then closeSlate s else s

/-! ### The tick (R23, R26, R31, R32, R34) -/

/-- The counters of a tick: a follower adopts its beacon's. -/
def countTick (s : State) : State :=
  let s := wr0 s FRM_NOW 0
  match s.frame.beacon, leader s with
  | some b, false => wr0 (wr0 (wr0 s FRM_TICK b.tick) FRM_FRAME b.frame) FRM_PERIOD b.period
  | _, _ => wr0 s FRM_TICK (rd0 s FRM_TICK + 1)

def takeTick (s : State) (i : TickIn) : State :=
  let s := setFrame s fun f => { f with halted := haltAsked s }
  let (k, s) := tickKind s
  let s := countTick s
  let s := if flag s FRM_CTL_FSYNC_OUT_EN && runSet s then send s .fsyncOut else s
  let s := match k with
    | .opening => openTick s false i
    | .maintenance => openTick s true i
    | .skipped => skipTick s
  let s := if leader s then sendBeacons s (k = .opening) else s
  setFrame s fun f => { f with next := none, beacon := none, doneLate := false, peerLate := false }

/-! ### Roll and Wrap -/

/-- The strike of a tenant that pass 0 claims (R91). -/
def claimedStrike (s : State) (x : Strike) : Bool := x.revoke && s.plan.strikeTenants.contains x.tenant

/-- The strike rows that the shot list claims: the strikes of tenants in revocation that fit, the first MIN_ROWS rows of RELEASE strikes, and
of their other rows what pass C lets each bank zero (R91, R92). -/
def strikeClaim (s : State) : State :=
  let s := strikeSome (sortStrikes s) (claimedStrike s) (rowCount ((s.strikes.filter (claimedStrike s)).flatMap (·.rows)))
  let s := strikeSome s isRelease (rd0 s SHL_STRIKE_MIN_ROWS)
  strikeIdle s isRelease ⟨s.plan.strikeRows, []⟩

/-- What the stages of the last frame left in the slots of the arrays serves no stage of this one (R19), and a revoked tenant's part of it is
zeroed with the rest before any wave enters (R138); no weights are prefetched yet. -/
def clearStages (s : State) : State :=
  { s with acts := [], resid := [], routes := [], logits := [], parts := [], streamBuf := [], work := workZero, runs := [] }

/-- Roll begins (R37): the gathers run, with the clocks of their programs, and the schedule's strike rows are zeroed. -/
def beginRoll (s : State) (clk : List Nat) : State :=
  if s.frame.phase ≠ .slate then s
  else
    let s := if s.frame.slateClosed then s else closeSlate s
    let s := if s.frame.kind = .frame then gatherAll s clk else s
    let s := if s.frame.kind = .frame then strikeClaim s else s
    setFrame (clearStages s) fun f => { f with phase := .roll }

/-- Wrap falls due (R47): Wrap begins, or the frame slips. -/
def dueWrap (s : State) (r : RollReport) (complete : Bool) : State :=
  if s.frame.phase ≠ .roll || s.frame.dueSeen then s
  else
    let s := setFrame s fun f => { f with dueSeen := true, report := measured s r }
    if s.frame.kind = .maint || (complete && !workLeft s) then beginWrap s
    else wr0 (setFrame s fun f => { f with slipped := true }) FRM_STS_SLIPPING 1

/-- The Roll of a slipped frame completes. -/
def completeRoll (s : State) (r : RollReport) : State :=
  if s.frame.phase = .roll && s.frame.dueSeen && !workLeft s then beginWrap (setFrame s fun f => { f with report := measured s r }) else s

/-- Function and ring of the record that Wrap waits to write. -/
def waitingRing (s : State) : Option (Nat × Option Nat) :=
  match s.wrapQ with
  | .token fn r _ _ :: _ => some (fn, some r)
  | .event fn _ :: _ => some (fn, none)
  | _ => none

def resumeWrap (s : State) : State :=
  if s.frame.phase ≠ .wrap then s
  else
    let was := waitingRing s
    let s := drainWrap s.wrapQ s
    if waitingRing s = was then s else setFrame s fun f => { f with stallTicks := 0 }

/-- The frame interrupt (R278). -/
def interrupt (s : State) (fn : Nat) : State :=
  if rd s fn SMP_INT_EN = 1 && (rd s fn SMP_INT_MODE = 0 || s.frame.served.contains fn) then vector s fn (rd s fn SMP_INT_VECTOR)
  else s

def raiseInterrupts (s : State) : State :=
  if s.frame.phase = .wrap && s.wrapQ = [] && !s.frame.interrupted then
    let s := setFrame s fun f => { f with interrupted := true }
    if flag s FRM_CTL_FRAME_INT_EN then forEach (List.range 32) s interrupt else s
  else s

/-- Data of a WRAP_DONE packet (R374, R376). -/
def wrapDoneData (s : State) : Bytes :=
  leBytes 8 (rd0 s FRM_FRAME)
    ++ leBytes 8 (s.frame.slipped.toNat + (if s.frame.slipped then rd0 s FRM_LAST_CAUSES * 2 else 0)
        + (runSet s).toNat * 2 ^ 8)

/-- WRAP_DONE is reported at W+20 µs, and a follower's packet carries its RUN (R36, R39). -/
def reportWrap (s : State) : State :=
  if s.frame.phase = .wrap && s.frame.interrupted then
    let s := setFrame s fun f => { f with phase := .none, wrapDone := true, hostWaited := false, doneLate := cutoffPassed s }
    if leader s then s
    else
      let s := originate s (control 8 s.frame.leaderDev (wrapDoneData s))
      setFrame s fun f => { f with takesPart := runSet s }
  else s

/-! ### Frames that fail, and stalls (R53, R277, R485) -/

def frameError (s : State) (reason : Nat) : State := raise s { cls := clFrame, reason := reason, type := 2 }

def limitSlip (s : State) : State :=
  if s.frame.kind = .frame && s.frame.phase = .roll && s.frame.dueSeen && rd0 s FRM_SLIP_LIMIT ≤ s.frame.ticksSinceDue then
    failFrame (frameError s 0x307)
  else s

def stormFails (s : State) : State :=
  if rd0 s ERL_FAIL_LIMIT ≤ rd0 s ERL_FAIL_RUN && runSet s then frameError (setRun s 0) 0x308 else s

def stallRing (s : State) : State :=
  match waitingRing s with
  | some (fn, _) =>
    if s.frame.phase = .wrap && rd0 s FRM_SLIP_LIMIT ≤ s.frame.stallTicks then
      raise (setFrame s fun f => { f with stallTicks := 0 })
        { cls := if fn = 0 then clFrame else clTenant, reason := 0x202, type := 5, inst := fn
          tenant := if fn = 0 then none else tenantOf s fn }
    else s
  | none => s

/-! ### Tick sources (R29, R34) -/

def fsyncSource (s : State) : Bool := rd0 s FRM_CFG_SRC = 1

/-- An edge within ±1 µs of the expected time is a tick; one outside the window lies before the next expected time, and is early. -/
def takeEdge (s : State) (offsetNs : Int) : State :=
  if !fsyncSource s then s
  else if -1000 ≤ offsetNs && offsetNs ≤ 1000 then wr0 (setFrame s fun f => { f with fsyncRun := 0 }) FRM_STS_LOCKED 1
  else bump0 s FRM_FSYNC_EARLY 1

def missEdge (s : State) : State :=
  if fsyncSource s then bump0 (setFrame s fun f => { f with fsyncRun := f.fsyncRun + 1 }) FRM_FSYNC_MISSED 1 else s

def loseEdges (s : State) : State :=
  if fsyncSource s && 8 ≤ s.frame.fsyncRun then
    frameError (wr0 (setFrame s fun f => { f with fsyncRun := 0 }) FRM_STS_LOCKED 0) 0x300
  else s

def missBeacon (s : State) : State :=
  if leader s then s else setFrame s fun f => { f with beaconRun := f.beaconRun + 1, beacon := none }

def loseBeacons (s : State) : State :=
  if !leader s && 3 ≤ s.frame.beaconRun then
    frameError (wr0 (setFrame s fun f => { f with beaconRun := 0 }) FRM_STS_LOCKED 0) 0x301
  else s

/-- A participant whose WRAP_DONE has been missing for eight ticks is removed (R35). -/
def dropPeer (s : State) (dev : Nat) : State :=
  if leader s && s.frame.participants.any (fun p => p.dev = dev && decide (8 ≤ p.missing)) then
    frameError (setFrame s fun f => { f with participants := f.participants.filter (·.dev ≠ dev) }) 0x302
  else s

/-! ### BEACON and WRAP_DONE packets (R33, R375, R376) -/

/-- Hops between this device and another, each dimension by its shorter way. -/
def distance (s : State) (dev : Nat) : Nat :=
  let way := fun n a b => min ((a + n - b) % n) ((b + n - a) % n)
  way (topoX s) (rd0 s LNK_TOPO_X) (dev % topoX s) + way (topoY s) (rd0 s LNK_TOPO_Y) (dev / topoX s)

/-- A follower accepts a beacon: its tick, its route, its compensation. A farther port of the route that retrained since the last
beacon shows in no input of this device: the compensation is formed anew with each beacon (R33, log entry 3). -/
def acceptBeacon (s : State) (port : Nat) (p : Packet) : State :=
  let w := fun i => leNat (slice p.data (8 * i) 8)
  let b : BeaconIn := ⟨bits (w 0) 0 48, bits (w 1) 0 48, bits (w 2) 0 17, bit (w 2) 17⟩
  let hops := distance s p.src.toNat - 1
  let s := recompensate (wr0 (wr0 s FRM_BEACON_PORT port) FRM_BEACON_HOPS hops) port hops
  let s := if rd0 s FRM_CFG_SRC = 2 then wr0 s FRM_STS_LOCKED 1 else s
  setFrame s fun f => { f with beacon := some b, beaconRun := 0, leaderDev := p.src.toNat }

/-- A copy goes on in its direction while its budget lasts, and into Y where FAN is set. -/
def spreadBeacon (s : State) (port : Nat) (p : Packet) : State :=
  let out := if port % 2 = 0 then port + 1 else port - 1
  let n := bits p.members.toNat 0 4 - 1
  let fan := bit p.members.toNat 4
  let s := if n = 0 || !trained s out then s else beaconCopy (bump0 s (inst LNK_FWD_FLITS out) (flitsOf p)) out n fan p
  if fan then forEach ((beaconBudgets s).filter (!·.2.2)) s fun s b => beaconCopy s b.1 b.2.1 false p else s

/-- A copy with BUDGET 0 is discarded uncounted. -/
def takeBeacon (s : State) (port : Nat) (p : Packet) : State :=
  if bits p.members.toNat 0 4 = 0 then s
  else
    let s := spreadBeacon s port p
    if leader s then s else if p.tagOk then acceptBeacon s port p else tagFails s port p

/-- A WRAP_DONE reaches the leader (R35, R36). -/
def takeWrapDone (s : State) (port : Nat) (p : Packet) : State :=
  if !p.tagOk then tagFails s port p
  else if !leader s then s
  else
    let d := p.src.toNat
    let run := bit (leNat (slice p.data 8 8)) 8
    let mine := s.frame.participants.any (·.dev = d)
    let late := mine && cutoffPassed s
    setFrame (setFrame s fun f => { f with peerLate := f.peerLate || late }) fun f =>
      if mine && run then { f with participants := f.participants.map fun q => if q.dev = d then ⟨d, true, 0⟩ else q }
      else
        { f with participants := f.participants.filter (·.dev ≠ d)
                 joining := f.joining.filter (· ≠ d) ++ (if run then [d] else []) }

/-! ### The commands -/

def execTick (i : TickIn) (s : State) : Out := act s fun s => takeTick s i

def execOpenCutoff (s : State) : Out :=
  act s fun s => if leader s then setFrame s fun f => { f with next := some (leaderKind s) } else s

def execRollBegin (gatherClk : List Nat) (s : State) : Out := act s fun s => beginRoll s gatherClk

def execWrapDue (r : RollReport) (rollComplete : Bool) (s : State) : Out := act s fun s => dueWrap s r rollComplete

def execRollComplete (r : RollReport) (s : State) : Out := act s fun s => completeRoll s r

def execWrapResume (s : State) : Out := act s resumeWrap

def execFrameInterrupt (s : State) : Out := act s raiseInterrupts

def execWrapDoneReport (s : State) : Out := act s reportWrap

def execSlipLimit (s : State) : Out := act s limitSlip

def execFailStorm (s : State) : Out := act s stormFails

def execRingStall (s : State) : Out := act s stallRing

def execFsyncEdge (offsetNs : Int) (s : State) : Out := act s fun s => takeEdge s offsetNs

def execFsyncMiss (s : State) : Out := act s missEdge

def execFsyncLost (s : State) : Out := act s loseEdges

def execBeaconMiss (s : State) : Out := act s missBeacon

def execBeaconLost (s : State) : Out := act s loseBeacons

def execPeerSilent (dev : Nat) (s : State) : Out := act s fun s => dropPeer s dev

def execPktBeacon (port : Nat) (p : Packet) (s : State) : Out := act s fun s => arrive s port p 7 fun s => takeBeacon s port p

def execPktWrapDone (port : Nat) (p : Packet) (s : State) : Out := act s fun s => deliver s port p 8 fun s => takeWrapDone s port p

end Sys2Proof.Machine
end

