-- ==== Sys2Proof/Machine/I3c.lean ====
section
/-! DEFINITION. The I3C target (R480): its address, its common command codes and the window on the telemetry block. -/
namespace Sys2Proof.Machine

/-- The static address. -/
def i3cStatic : Nat := 0x2C

def setOps (s : State) (o : OpsSt) : State := { s with ops := o }

/-- The target answers when it holds a dynamic address. -/
def addressed (s : State) (f : State → State) : State := if s.ops.i3cAddr = 0 then send s .i3cNack else f s

/-- An answer of `n` bytes whose content the manual does not state (log entry 3). -/
def answerOpen (s : State) (n : Nat) : State :=
  addressed s fun s =>
    let (b, s) := drawBytes n s
    send s (.i3cAck b)

/-- Telemetry bytes from the offset; bytes past the block are open (log entry 3). -/
def readTelemetry (s : State) (n : Nat) : State :=
  let have_ := ((padTo 256 s.ops.telemetry).drop s.ops.i3cOff).take n
  let (b, s) := drawBytes (n - have_.length) s
  send s (.i3cAck (have_ ++ b))

/-! ### The commands -/

/-- A target without an address takes the one that the controller assigns. -/
def execEntdaa (addr : BitVec 7) (s : State) : Out :=
  act s fun s =>
    if s.ops.i3cAddr ≠ 0 then send s .i3cNack else send (setOps s { s.ops with i3cAddr := addr.toNat }) (.i3cAck [])

def execSetdasa (static dyn : BitVec 7) (s : State) : Out :=
  act s fun s =>
    if static.toNat ≠ i3cStatic || s.ops.i3cAddr ≠ 0 then send s .i3cNack
    else send (setOps s { s.ops with i3cAddr := dyn.toNat }) (.i3cAck [])

def execRstdaa (s : State) : Out := act s fun s => send (setOps s { s.ops with i3cAddr := 0 }) (.i3cAck [])

def execGetpid (s : State) : Out := act s fun s => answerOpen s 6

def execGetbcr (s : State) : Out := act s fun s => answerOpen s 1

def execGetdcr (s : State) : Out := act s fun s => answerOpen s 1

def execGetstatus (s : State) : Out := act s fun s => answerOpen s 2

def execGetmxds (s : State) : Out := act s fun s => answerOpen s 2

def execEnec (s : State) : Out := act s fun s => send (setOps s { s.ops with ibiEn := true }) (.i3cAck [])

def execDisec (s : State) : Out := act s fun s => send (setOps s { s.ops with ibiEn := false }) (.i3cAck [])

/-- A write of exactly one byte sets the offset; no other write has an effect. -/
def execPrivateWrite (data : Bytes) (s : State) : Out :=
  act s fun s => addressed s fun s =>
    match data with
    | [b] => send (setOps s { s.ops with i3cOff := b.toNat }) (.i3cAck [])
    | _ => send s (.i3cAck [])

def execPrivateRead (len : Nat) (s : State) : Out := act s fun s => addressed s fun s => readTelemetry s len

end Sys2Proof.Machine
end

