-- ==== Sys2Proof/Machine/Jtag.lean ====
section
/-! DEFINITION. The test access port (16, 20): boundary scan (R506, R507) and the two debug levels (R428). -/
namespace Sys2Proof.Machine

/-- The port is usable while PWR_OK is high. -/
def tap (s : State) (f : State → State) : Out := actAlways s fun s => if s.pins.pwrOk then f s else s

def setTap (s : State) (i : TapInstr) : State := { s with pins := { s.pins with tap := i } }

/-- The boundary register shifts out: what the pins hold is open (log entry 3). -/
def shiftBoundary (s : State) (i : TapInstr) : State :=
  let (v, s) := draw (setTap s i)
  send s (.jtag v.toNat)

/-- IDCODE (R506); the manufacturer code is open (log entry 3). -/
def idWord (maker : Nat) : Nat := 2 ^ 28 + 0x3264 * 2 ^ 12 + maker % 2 ^ 11 * 2 + 1

/-- A debug instruction reaches its level: clocks run, and the mode allows it. -/
def debugOpen (s : State) (allowed : Bool) : Bool := running s && allowed

/-- The first use of a debug level since reset extends MODE and sets its report flag. -/
def firstUse (s : State) (f : Fld) (event : Nat) (digest : BitVec 384) : State :=
  if flag s f then s else wr0 (extend s 6 event digest) f 1

/-- The bytes of a part: `n` bytes of an array, register or row buffer `n` of a unit with its elements from the lowest on, row `n`. Where the
activations lie in array SRAM, and what a tile or an operation of a post unit leaves behind (R139), the spec does not lay out: those bytes are free
values (log entry 80). -/
def debugBytes (s : State) (part : DebugPart) (n : Nat) : Bytes × State :=
  match part with
  | .sram _ | .accumulators _ | .postUnit _ => drawBytes n s
  | .unitV u => ((mapGetD (unitOf s (bankOf u)).v n zeroLanes).flatMap fun w => leBytes 2 w.toNat, s)
  | .unitS u => (leBytes 4 (mapGetD (unitOf s (bankOf u)).s n 0).toNat, s)
  | .unitRb u => (memReadN (unitOf s (bankOf u)).rb (1024 * n) 1024, s)
  | .rows u => (rowRead s (bankOf u) n, s)

/-! ### The commands -/

/-- EXTEST is accepted only while PERST_N is low; otherwise it acts as BYPASS. -/
def execExtest (s : State) : Out :=
  tap s fun s => if s.pins.perstN then setTap s .bypass else shiftBoundary s .extest

def execSamplePreload (s : State) : Out := tap s fun s => shiftBoundary s .sample

def execBypass (s : State) : Out := tap s fun s => setTap s .bypass

def execIdcode (s : State) : Out :=
  tap s fun s =>
    let (v, s) := draw (setTap s .idcode)
    send s (.jtag (idWord v.toNat))

/-- A register as the physical function reads it, without the effect of a read; it acts as BYPASS in CONFIDENTIAL mode. -/
def execDebugObserve (off : Nat) (digest : BitVec 384) (s : State) : Out :=
  tap s fun s =>
    if debugOpen s (!confidential s) then
      let s := firstUse (setTap s .observe) MTP_MODE_DEBUG_OBSERVE 3 digest
      send s (.readData (leBytes 8 (readReg s 0 off)))
    else setTap s .bypass

/-- The data level reads, in DIAGNOSTIC mode only. -/
def execDebugData (part : DebugPart) (n : Nat) (digest : BitVec 384) (s : State) : Out :=
  tap s fun s =>
    if debugOpen s (diagnostic s) then
      let (bs, s) := debugBytes (firstUse (setTap s .data) MTP_MODE_DEBUG_DATA 4 digest) part n
      send s (.readData bs)
    else setTap s .bypass

/-- TRST_N low resets the port: the instruction that IEEE 1149.1 gives a device with an IDCODE. -/
def execTapReset (s : State) : Out := tap s fun s => setTap s .idcode

end Sys2Proof.Machine
end

