-- ==== Sys2Proof/Machine/Migrate.lean ====
section
/-! DEFINITION. The migration engines (11): copies of granules between board memory and the stacks, and the events that end a pass. -/
namespace Sys2Proof.Machine

/-! ### The migration engines (R299 to R301) -/

/-- The engine may start a copy: EN, and an object with a copy pass that runs. -/
def migReady (s : State) (o : Nat) : Bool :=
  flag s MIG_CTL_EN && ((objOf s o).st = .promoting || (objOf s o).st = .demoting)
    && (objOf s o).pass < (objOf s o).size

/-- Granules of a pass, from `k` on, that need no copy: they are where the pass brings them, or the other engine copies them. -/
def passNext (s : State) (o : Obj) : Nat → Nat → Nat
  | 0, k => k
  | fuel + 1, k =>
    let e := xentOf s (o.base / 2 ^ 21 + k)
    if k < o.size && (e.copying || e.loc ≠ (if o.st = .promoting then .board else .stack)) then passNext s o fuel (k + 1) else k

/-- An idle engine takes up the object's next granule, in ascending order; `ue` and `corr`: what the reads of its source meet. -/
def startCopy (s : State) (engine n : Nat) (ue : Bool) (corr : Nat) : State :=
  let o := objOf s n
  let g := passNext s o o.size o.pass
  let s := setObj s n { o with pass := g + 1 }
  if o.size ≤ g then setObj s n { o with pass := g }
  else
    let k := o.base / 2 ^ 21 + g
    let s := wr0 (wr0 s (if engine = 0 then MIG_STS_OBJ0 else MIG_STS_OBJ1) n) (migBusy engine) 1
    setXent { s with migs := mapPut s.migs engine ⟨n, g, o.st = .promoting, ue, corr⟩ } k { xentOf s k with copying := true }

/-- A copy of an engine: an idle engine starts one, and `commits` says that it commits within the step; one in progress ends. -/
def migrateOne (s : State) (engine n : Nat) (ue : Bool) (corr : Nat) (commits : Bool) : State :=
  match mapGet s.migs engine with
  | some _ => if commits then commitCopy s engine else s
  | none =>
    if !migReady s n then s
    else
      let s := startCopy s engine n ue corr
      if commits then commitCopy s engine else s

/-- A copy pass has handled every granule, and no engine still copies one. -/
def passDone (s : State) (n : Nat) : Bool :=
  ((objOf s n).st = .promoting || (objOf s n).st = .demoting) && (objOf s n).size ≤ (objOf s n).pass && !s.migs.any (fun m => m.2.obj = n)

/-! ### The commands -/

def execMigrationCopy (engine obj : Nat) (copy : CopyIn) (s : State) : Out :=
  act s fun s => if engine < 2 && obj < 65536 then migrateOne s engine obj copy.failed copy.corr copy.commits else s

/-- DONE_CLAIMED is raised when a pass has ended with CLAIMS nonzero at that instant. -/
def execDoneClaimed (obj : Nat) (s : State) : Out :=
  act s fun s => if passDone s obj && (objOf s obj).claims ≠ 0 then migEvent s obj 3 else s

def execDoneUnclaimed (obj : Nat) (s : State) : Out :=
  act s fun s => if passDone s obj && (objOf s obj).claims = 0 then migEvent s obj 4 else s

end Sys2Proof.Machine
end

