-- ==== Sys2Proof/Machine/Pcie.lean ====
section
/-! DEFINITION. The PCIe endpoint (15, 16): function-level reset (R399, R400), Bus Master Enable and D3hot (R394), L0p (R378), DOE with
SPDM, reports and IDE keys (R395, R396, R412 to R414), TDISP (R397, R429), and lane margining (R398). -/
namespace Sys2Proof.Machine

/-! ### Function-level reset (R399, R400) -/

/-- Pages whose registers a function-level reset returns to their reset values: SHL report, SMP, XPD and PCI. -/
def flrPages : List Nat := [0x3000, 0x4000, 0x7000, 0xA000]

/-- The function's own copies in one page take their reset values; writes pending there are dropped. -/
def resetPage (s : State) (fn base : Nat) : State :=
  forEach (pageHits base) (dropPending s fn base) fun s h =>
    if h.spec.seen = .own then wr s fn h.fld (resetValue s base h.spec h.fld) else s

/-- Steps 2 and 4 of R399: rings and queues are disabled, registers and configuration space return to their reset values, and
commands that were not read are never applied. -/
def resetFunction (s : State) (fn : Nat) : State :=
  let s := forEach (List.range 8) s fun s q => closeXq s fn q
  let s := forEach flrPages s fun s b => resetPage s fn b
  let s := { s with ring := s.ring.filter fun c => !(cmdHdrOf c).any (·.fn = fn)
                    xqLatched := s.xqLatched.filter fun p => p.1 / 8 ≠ fn }
  setFn (wr0 s (fldAt PCI_FN_TDISP fn 8) 0) fn { fnZero with inFlr := true, flrAnswer := true, stream := (fnOf s fn).stream }

/-- The strike of a function's tenant (R399 step 1, R397). -/
def strikeFunction (s : State) (fn : Nat) : State :=
  match tenantOf s fn with
  | none => s
  | some t => revokeFn (wr0 s (fldAt PCI_FN_STRIKING fn 8) 1) fn t

/-- A function-level reset of a function. -/
def resetFn (s : State) (fn : Nat) : State :=
  resetFunction (strikeFunction (setFn s fn { fnOf s fn with inFlr := true }) fn) fn

/-- The configuration space of a function in reset answers; with no strike to wait for the reset is over. -/
def configReady (s : State) (fn : Nat) : State :=
  let x := fnOf s fn
  if !x.flrAnswer then s
  else
    let s := setFn s fn { x with flrAnswer := false }
    if fn = 0 || rd0 s (fldAt PCI_FN_STRIKING fn 8) = 1 then settlePf s
    else leaveFlr s stOk fn

/-! ### Writes to the host (R394) -/

/-- Records held for a function are written once it can receive them. -/
def resumeWrites (s : State) (fn : Nat) : State :=
  if !canWrite s fn then s
  else
    let s := if evrOpen s fn then flushEvents (fnOf s fn).hold s fn else s
    if fn = 0 then flushErrors s.erl.hold s else s

/-! ### L0p (R378) -/

def l0pWidths : List Nat := [1, 2, 4, 8, 16]

/-- An increase is taken at once; a reduction requested during Slate or Roll waits for the end of Wrap. -/
def l0pAsk (s : State) (w : Nat) : State :=
  if !l0pWidths.contains w || rd0 s PCI_LINK_WIDTH < w then s
  else if rd0 s PCI_LINK_L0P_WIDTH ≤ w || (s.frame.phase ≠ .slate && s.frame.phase ≠ .roll) then
    wr0 { s with l0p := none } PCI_LINK_L0P_WIDTH w
  else { s with l0p := some w }

/-! ### DOE, SPDM, IDE (R395, R396, R412 to R414) -/

/-- Protocols in the order of DOE Discovery, as vendor ID, type and next index (PCIe Base Specification, log entry 40). -/
def doeProtocol (index : Nat) : Bytes :=
  if index < 3 then leBytes 4 (1 + index * 2 ^ 16 + (index + 1) % 3 * 2 ^ 24) else leBytes 4 0xFFFFFF

/-- A request over SPDM; without its identity the device refuses it (R409). -/
def spdm (s : State) (fn : Nat) (f : State → State) : State :=
  if 32 ≤ fn then s else if !flag s MTP_ID_OK then send s (.doe fn .spdmError []) else f s

def mreg (s : State) (i : Nat) : Bytes := digestBytes (mapGetD s.trust.mreg i 0)

/-- Bytes 0x000 to 0x25F of a report. -/
def reportBody (s : State) (fn nonce : Nat) : Bytes :=
  let t := if fn = 0 then none else tenantOf s fn
  let v := fun (f : Nat → Nat) => match t with | some t => f t | none => 0
  let flags := (decide (fn ≠ 0)).toNat + (confidential s).toNat * 2 + rd0 s MTP_MODE_DEBUG_OBSERVE * 4 + rd0 s MTP_MODE_DEBUG_DATA * 8
    + rd0 s MTP_LOG_OVERFLOW * 16
  leBytes 4 0x52414B54 ++ leBytes 2 1 ++ leBytes 2 flags ++ leBytes 4 36656 ++ leBytes 4 608
    ++ ((List.range 4).flatMap fun i => leBytes 8 (rd0 s (fldAt MTP_ID i 8))) ++ leBytes 32 nonce
    ++ leBytes 4 (rd0 s MTP_FW_SVN) ++ leBytes 1 (rd0 s CFG_BASE_MODE) ++ leBytes 1 0xB0 ++ leBytes 2 (rd0 s FLC_STS_BOOT_COPY)
    ++ leBytes 8 (rd0 s FRM_TICK) ++ leBytes 8 (rd0 s FRM_FRAME) ++ leBytes 8 (rd0 s MTP_LOG_COUNT)
    ++ ((upto 1 8).flatMap (mreg s)) ++ digestBytes (sha384 (logImage s))
    ++ leBytes 1 (t.getD 0) ++ leBytes 1 fn ++ leBytes 1 (v (slotState s)) ++ leBytes 1 (if fn = 0 then 0 else rd0 s (fldAt PCI_FN_TDISP fn 8))
    ++ leBytes 4 (v fun t => rd0 s (fldAt KEY_SLOT_EPOCH t 8))
    ++ (if flag s KEY_TORUS_HELD then leBytes 8 (rd0 s KEY_TORUS_ID0) ++ leBytes 8 (rd0 s KEY_TORUS_ID1) else List.replicate 16 0)
    ++ leBytes 2 (v fun t => rd0 s (fldAt CSH_RANGE_BASE t 8)) ++ leBytes 6 (v fun t => rd0 s (fldAt CSH_RANGE_COUNT t 8))
    ++ leBytes 8 (v fun t => rd0 s (fldAt UMR_WIN_BASE t 8)) ++ leBytes 8 (v fun t => rd0 s (fldAt UMR_WIN_SIZE t 8))
    ++ List.replicate 16 0

/-- A report request: one at a time in each mailbox. -/
def askReport (s : State) (fn nonce : Nat) : State :=
  if (mapGet s.trust.signing fn).isSome then send s (.doe fn .busy [])
  else { s with trust := { s.trust with signing := mapPut s.trust.signing fn nonce } }

/-- The signed report leaves; its two signatures are open (log entry 3). -/
def sendReport (s : State) (fn nonce : Nat) : State :=
  let body := reportBody s fn nonce
  let (sig, s) := drawBytes 36048 { s with trust := { s.trust with signing := mapDel s.trust.signing fn } }
  send s (.doe fn .report (body ++ sig))

/-- Streams whose keys are programmed. -/
def settleStreams (s : State) : State :=
  wr0 s PCI_LINK_SEL_STREAMS ((List.range 32).filter fun f => (fnOf s f).stream).length

/-- IDE keys of the link stream, or of a function's selective stream, are programmed or cleared. -/
def ideKeys (s : State) (fn : Nat) (link program : Bool) : State :=
  let s := if link then wr0 s PCI_LINK_IDE_LINK program.toNat else settleStreams (setFn s fn { fnOf s fn with stream := program })
  send s (.doe 0 .ideKm [])

/-! ### TDISP (R397, R429) -/

def tdiState (s : State) (fn : Nat) : Nat := rd0 s (fldAt PCI_FN_TDISP fn 8)

def setTdi (s : State) (fn st : Nat) : State := wr0 s (fldAt PCI_FN_TDISP fn 8) st

/-- A TDISP request to the TDI of a virtual function: from the states that `from_` lists. -/
def tdisp (s : State) (fn : Nat) (ok : Bool) (f : State → State) : State :=
  if 1 ≤ fn && fn < 32 then
    if ok && flag s MTP_ID_OK then send (f s) (.doe fn .tdisp []) else send s (.doe fn .tdispError [])
  else s

/-! ### The commands -/

def execFlr (fn : Nat) (s : State) : Out := act s fun s => if 1 ≤ fn && fn < 32 then resetFn s fn else s

/-- A reset of the physical function resets every function. -/
def execPfFlr (s : State) : Out := act s fun s => resetFn (forEach (upto 1 31) s resetFn) 0

def execConfigSpaceReady (fn : Nat) (s : State) : Out := act s fun s => if fn < 32 then configReady s fn else s

def execBusMasterEnable (fn : Nat) (v : Bool) (s : State) : Out :=
  act s fun s => if fn < 32 then resumeWrites (setFn s fn { fnOf s fn with bme := v }) fn else s

def execD3hot (fn : Nat) (v : Bool) (s : State) : Out :=
  act s fun s => if fn < 32 then resumeWrites (setFn s fn { fnOf s fn with d3hot := v }) fn else s

def execL0pRequest (width : BitVec 5) (s : State) : Out := act s fun s => l0pAsk s width.toNat

def execL0pReduce (s : State) : Out :=
  act s fun s =>
    match s.l0p with
    | some w => if s.frame.phase = .none then wr0 { s with l0p := none } PCI_LINK_L0P_WIDTH w else s
    | none => s

def execDoeDiscovery (fn : Nat) (index : Byte) (s : State) : Out :=
  act s fun s => if fn < 32 then send s (.doe fn .discovery (doeProtocol index.toNat)) else s

def execGetMeasurements (fn : Nat) (s : State) : Out :=
  act s fun s => spdm s fn fun s => send s (.doe fn .measurements ((upto 1 8).flatMap (mreg s)))

def execGetReport (fn : Nat) (nonce : BitVec 256) (s : State) : Out := act s fun s => spdm s fn fun s => askReport s fn nonce.toNat

def execReportSigned (fn : Nat) (s : State) : Out :=
  act s fun s => match mapGet s.trust.signing fn with | some n => sendReport s fn n | none => s

def execIdeKm (fn : Nat) (link program : Bool) (s : State) : Out := act s fun s => spdm s fn fun s => ideKeys s fn link program

def execLockInterface (fn : Nat) (s : State) : Out :=
  act s fun s => tdisp s fn (confidential s && tdiState s fn = 0) fun s => setTdi s fn 1

def execStartInterface (fn : Nat) (s : State) : Out := act s fun s => tdisp s fn (tdiState s fn = 1) fun s => setTdi s fn 2

/-- STOP_INTERFACE: the TDI is unlocked, and its function's strike starts. -/
def execStopInterface (fn : Nat) (s : State) : Out :=
  act s fun s => tdisp s fn true fun s => strikeFunction (setTdi s fn 0) fn

/-- A locked or running TDI moves to ERROR, and its function's strike starts. -/
def execTdiError (fn : Nat) (s : State) : Out :=
  act s fun s =>
    if 1 ≤ fn && fn < 32 && (tdiState s fn = 1 || tdiState s fn = 2) then strikeFunction (setTdi s fn 3) fn else s

def execLaneMargin (active : Bool) (s : State) : Out := act s fun s => { s with ops := { s.ops with marginHost := active } }

end Sys2Proof.Machine
end

