-- ==== Sys2Proof/Machine/Sampler.lean ====
section
/-! DEFINITION. The sampler (10): allowed tokens, the generator, the candidate list, draft acceptance, and the SAMPLE stage. -/
namespace Sys2Proof.Machine

/-! ### The generator (R264) -/

def gen64 (seed : W64) (p slot : Nat) : W64 :=
  let x := seed ^^^ BitVec.ofNat 64 (4 * p) ^^^ BitVec.ofNat 64 slot
  let x := x + 0x9E3779B97F4A7C15
  let x := (x ^^^ (x >>> 30)) * 0xBF58476D1CE4E5B9
  let x := (x ^^^ (x >>> 27)) * 0x94D049BB133111EB
  x ^^^ (x >>> 31)

/-- 2^-24. -/
def f32Ulp24 : F32 := 0x33800000

def unif (seed : W64) (p slot : Nat) : F32 := f32Mul (f32OfInt ((gen64 seed p slot).toNat / 2 ^ 40)) f32Ulp24

/-! ### Allowed tokens (R263) -/

def poolRowOf (s : State) (e y : Nat) : Option PoolRow := s.plan.pool.find? fun p => p.entry = e && p.pos = y

/-- Token `v` may follow position `y` of the entry. -/
def allowed (s : State) (e y v : Nat) : Bool :=
  let x := entryOf s e
  if x.maskTbl = 0 then !(x.smp.bans.contains v)
  else match poolRowOf s e y with
    | some p => poolAllows s p v
    | none => false

/-! ### The candidate list (R265) -/

def f32MaxVal : F32 := 0x7F7FFFFF

/-- A logit as the sampler reads it. -/
def cleanLogit (z : F32) : F32 :=
  if f32IsNan z || z = f32Inf true then 0xFF7FFFFF else if z = f32Inf false then f32MaxVal else z

def clampF (x : F32) : F32 := if x = f32Inf false then f32MaxVal else if x = f32Inf true then 0xFF7FFFFF else x

/-- Candidates with their weights, in list order. -/
abbrev Cands := List (Nat × F32)

/-- Steps 1 and 2: allowed ids with t, the `topk` largest in order or all in ascending id. `xs` holds the allowed ids with s. -/
def tempered (p : SmpCopy) (xs : List (Nat × F32)) : List (Nat × F32) :=
  let ts := xs.map fun x => (x.1, clampF (f32Mul (f32Mul x.2 p.itemp) kLog2e))
  if p.topk = 0 then ts else (topItems p.topk (ts.map fun x => (x.2, x.1))).map fun x => (x.2, x.1)

def largest (xs : List (Nat × F32)) : F32 := xs.foldl (fun m x => f32Max m x.2) ((xs.headD (0, 0)).2)

/-- The shortest prefix whose running sum reaches `thr`. -/
def nucleus (thr : F32) : F32 → Cands → Cands
  | _, [] => []
  | c, x :: xs =>
    let c := f32Add c x.2
    if f32Le thr c then [x] else x :: nucleus thr c xs

def sumWeights (xs : Cands) : F32 := xs.foldl (fun z x => f32Add z x.2) 0

def buildCands (p : SmpCopy) (xs : List (Nat × F32)) : Cands :=
  let l := tempered p xs
  let mx := largest l
  let w := (l.map fun x => (x.1, exp2K (f32SubOp x.2 mx))).filter fun x => !f32Lt x.2 p.minp
  nucleus (f32Mul p.topp (sumWeights w)) 0 w

/-- pick without the candidate `skip`. -/
def pickFrom (tgt : F32) : F32 → Nat → Cands → Nat
  | _, last, [] => last
  | c, _, x :: xs =>
    let c := f32Add c x.2
    if f32Lt tgt c then x.1 else pickFrom tgt c x.1 xs

def pick (cs : Cands) (u : F32) (skip : Option Nat) : Nat :=
  let cs := cs.filter fun c => some c.1 ≠ skip
  pickFrom (f32Mul u (sumWeights cs)) 0 0 cs

/-! ### One position (R266, R268, R269) -/

/-- Only +0.0 is greedy (R266). -/
def greedy (p : SmpCopy) : Bool := p.itemp = 0

/-- The allowed id with the largest s, ties to the lower id. -/
def greedyToken (xs : List (Nat × F32)) : Nat := ((topItems 1 (xs.map fun x => (x.2, x.1))).headD (0, 0)).2

/-- The allowed ids of position `y` with their logits. -/
def allowedLogits (s : State) (e y : Nat) (zs : List F32) : List (Nat × F32) :=
  (zs.zipIdx.filter fun z => allowed s e y z.2).map fun z => (z.2, cleanLogit z.1)

/-- The token that R266 gives for position `p`. -/
def drawToken (x : Entry) (p : Nat) (ls : List (Nat × F32)) (cs : Cands) : Nat :=
  if greedy x.smp then greedyToken ls else pick cs (unif x.seed p 0) none

/-- The draft is accepted. -/
def acceptDraft (x : Entry) (p d : Nat) (ls : List (Nat × F32)) (cs : Cands) : Bool :=
  if greedy x.smp || x.smp.accept = 0 then d = drawToken x p ls cs
  else
    match cs.find? (·.1 = d) with
    | none => false
    | some c => cs.length = 1 || f32Lt (f32Mul (unif x.seed p 1) (sumWeights cs)) c.2

/-- The token drawn in place of a rejected draft. -/
def replaceDraft (x : Entry) (p d : Nat) (ls : List (Nat × F32)) (cs : Cands) : Nat :=
  if greedy x.smp || x.smp.accept = 0 then drawToken x p ls cs else pick cs (unif x.seed p 0) (some d)

/-! ### A step or an emitting chunk (R78, R80, R245, R267, R270) -/

def stepMask (s : State) (x : Entry) (ms v : Nat) : Nat :=
  match maskOf (reelOf s x.reel) x.maskTbl with
  | some m => maskNext s m ms v
  | none => 0

/-- Finish reason after an emitted token; 0 when emission goes on. -/
def tokenReason (s : State) (x : Entry) (v ms n : Nat) : Nat :=
  if x.smp.stops.contains v then 1
  else if (maskOf (reelOf s x.reel) x.maskTbl).any (fun m => m.terminal = ms) then 7
  else if x.maxNew ≤ x.emitted + n then 2
  else 0

/-- Emission over the positions from `y` on, with the drafts that remain. `r` is what has been emitted. `none`: a position's logits
have not arrived. -/
def emit (s : State) (e stage : Nat) : List Nat → Nat → Sampled → Option Sampled
  | ds, y, r =>
    let x := entryOf s e
    match mapGet s.logits (actKey x.reel stage e y) with
    | none => none
    | some zs =>
      let ls := allowedLogits s e y zs
      if ls = [] then some { r with maskEmpty := true, reason := 7 }
      else
        let cs := buildCands x.smp ls
        let put := fun v acc =>
          let ms := stepMask s x r.maskState v
          { r with toks := r.toks ++ [(v, acc)], accepted := r.accepted + acc.toNat, maskState := ms
                   reason := tokenReason s x v ms (r.toks.length + 1) }
        match ds with
        | [] => some (put (drawToken x (y + 1) ls cs) false)
        | d :: ds =>
          if acceptDraft x (y + 1) d ls cs then
            let r := put d true
            if r.reason ≠ 0 then some r else emit s e stage ds (y + 1) r
          else some (put (replaceDraft x (y + 1) d ls cs) false)

/-- The sampler decides a planned entry whose last positions lie in the micro-batch. -/
def sampleEntry (s : State) (stage : Nat) (p : Planned) : State :=
  let x := entryOf s p.entry
  let y := if p.chunk then p.base + p.toks - 1 else p.base
  if s.plan.sampled.any (·.entry = p.entry) || s.plan.faults.any (·.1 = p.entry) || (p.chunk && !emits x p.toks) then s
  else
    match emit s p.entry stage (if p.chunk then [] else p.drafts) y ⟨p.entry, [], 0, 0, false, x.maskState⟩ with
    | some r => { s with plan := { s.plan with sampled := s.plan.sampled ++ [r] } }
    | none => s

/-- Planned entries whose last position of this frame lies in the micro-batch. -/
def sampledHere (s : State) (mb : Micro) : List Planned :=
  s.plan.planned.filter fun p => mb.toks.contains (p.entry, p.base + p.toks - 1)

/-- The LMHEAD stage whose logits the sampler takes: the one the job names, else the reel's last. -/
def logitStage (j : Job) : Nat :=
  match j.inp.src with
  | g :: _ => g
  | [] => (((stageList j.reel).filter (fun p => p.2.kind = kLmhead)).getLast?.map (·.1)).getD 0

def runSample (s : State) (j : Job) : State := forEach (sampledHere s j.mb) s fun s p => sampleEntry s (logitStage j) p

def execSample (i : StageIn) (s : State) : Out := act s fun s => runStage s i kSample onArray runSample

end Sys2Proof.Machine
end

