-- ==== Sys2Proof/Machine/Stats.lean ====
section
/-! DEFINITION. Absmax tables (R169). -/
namespace Sys2Proof.Machine

def amaxRecord (a : Amax) : Bytes :=
  leBytes 4 a.amax.toNat ++ leBytes 4 a.group ++ leBytes 4 a.amax2.toNat ++ leBytes 4 a.exp2 ++ leBytes 4 a.wide ++ leBytes 4 a.clamp
    ++ leBytes 4 a.nan ++ leBytes 4 a.mb

/-- The table of a closed interval: a header, then a record for each stage. -/
def amaxTable (slot stages first last : Nat) (m : Map Amax) : Bytes :=
  leBytes 8 first ++ leBytes 8 last ++ leBytes 8 (stages + slot * 2 ^ 16) ++ List.replicate 8 0
    ++ (List.range stages).flatMap fun i => amaxRecord (mapGetD m i amaxZero)

/-- During the Roll of the following frame the table is written, the records start again, and STA_AMAX_SEQ counts the table (R169). While the
host cannot receive it the write is dropped and the closed interval waits. -/
def amaxWriteout (s : State) (slot : Nat) : State :=
  let r := reelOf s slot
  match r.closed with
  | none => s
  | some (m, first, last) =>
    if s.frame.kind ≠ .frame || s.frame.phase ≠ .roll then s
    else if rd0 s (fldAt STA_AMAX_BASE slot 8) = 0 || confidential s then setReel s slot { r with closed := none, amax := [] }
    else if !canWrite s 0 then dropRecord s 0
    else
      let s := setReel s slot { r with closed := none, amax := [] }
      let s := hostWrite s 0 (rd0 s (fldAt STA_AMAX_BASE slot 8)) (amaxTable slot r.stages.length first last m)
      wr0 s STA_AMAX_SEQ (rd0 s STA_AMAX_SEQ + 1)

def execAmaxWriteout (reel : Nat) (s : State) : Out := act s fun s => if reel < 4 then amaxWriteout s reel else s

end Sys2Proof.Machine
end

