-- ==== Sys2Proof/Machine/Dispatch.lean ====
section
/-! DEFINITION. One arm for every command: its meaning, or its rejection by name. -/
namespace Sys2Proof.Machine

def exec (i : Instr) (s : State) : Host.Outcome State Fault Refusal :=
  match i with
  | .tick x => Sys2Proof.Machine.execTick x s
  | .openCutoff => Sys2Proof.Machine.execOpenCutoff s
  | .rollBegin gatherClk => Sys2Proof.Machine.execRollBegin gatherClk s
  | .wrapDue r rollComplete => Sys2Proof.Machine.execWrapDue r rollComplete s
  | .rollComplete r => Sys2Proof.Machine.execRollComplete r s
  | .wrapResume => Sys2Proof.Machine.execWrapResume s
  | .frameInterrupt => Sys2Proof.Machine.execFrameInterrupt s
  | .wrapDoneReport => Sys2Proof.Machine.execWrapDoneReport s
  | .slipLimit => Sys2Proof.Machine.execSlipLimit s
  | .failStorm => Sys2Proof.Machine.execFailStorm s
  | .ringStall => Sys2Proof.Machine.execRingStall s
  | .fsyncEdge offsetNs => Sys2Proof.Machine.execFsyncEdge offsetNs s
  | .fsyncMiss => Sys2Proof.Machine.execFsyncMiss s
  | .fsyncLost => Sys2Proof.Machine.execFsyncLost s
  | .beaconMiss => Sys2Proof.Machine.execBeaconMiss s
  | .beaconLost => Sys2Proof.Machine.execBeaconLost s
  | .peerSilent dev => Sys2Proof.Machine.execPeerSilent dev s
  | .run v => Sys2Proof.Machine.execRun v s
  | .gate v => Sys2Proof.Machine.execGate v s
  | .discard fn page => Sys2Proof.Machine.execDiscard fn page s
  | .softReset page => Sys2Proof.Machine.execSoftReset page s
  | .softResetDone page => Sys2Proof.Machine.execSoftResetDone page s
  | .blkCtlEnable page v => Sys2Proof.Machine.execBlkCtlEnable page v s
  | .haltAtTick page v => Sys2Proof.Machine.execHaltAtTick page v s
  | .blkErrClear fn page mask => Sys2Proof.Machine.execBlkErrClear fn page mask s
  | .registerWrite fn off v => Sys2Proof.Machine.execRegisterWrite fn off v s
  | .readToClear fn off => Sys2Proof.Machine.execReadToClear fn off s
  | .hubTodWrite v => Sys2Proof.Machine.execHubTodWrite v s
  | .sqDoorbell fn ring tail => Sys2Proof.Machine.execSqDoorbell fn ring tail s
  | .xpdTailWrite fn queue tail => Sys2Proof.Machine.execXpdTailWrite fn queue tail s
  | .ringHeadWrite fn ring head => Sys2Proof.Machine.execRingHeadWrite fn ring head s
  | .resume fn queue => Sys2Proof.Machine.execResume fn queue s
  | .csvFirstWrite fn first => Sys2Proof.Machine.execCsvFirstWrite fn first s
  | .rgnBoundWrite stack chan bound => Sys2Proof.Machine.execRgnBoundWrite stack chan bound s
  | .conversionDone stack => Sys2Proof.Machine.execConversionDone stack s
  | .cfgStageGo img => Sys2Proof.Machine.execCfgStageGo img s
  | .cfgStageDone => Sys2Proof.Machine.execCfgStageDone s
  | .erlResetKey key => Sys2Proof.Machine.execErlResetKey key s
  | .runFirmware verified => Sys2Proof.Machine.execRunFirmware verified s
  | .bootCopyA verified => Sys2Proof.Machine.execBootCopyA verified s
  | .bootCopyB verified => Sys2Proof.Machine.execBootCopyB verified s
  | .configBase img => Sys2Proof.Machine.execConfigBase img s
  | .reelsFile file => Sys2Proof.Machine.execReelsFile file s
  | .recoveryDone ok => Sys2Proof.Machine.execRecoveryDone ok s
  | .admitEntry h entry img ue => Sys2Proof.Machine.execAdmitEntry h entry img ue s
  | .feed h entry ptr len go newState setState => Sys2Proof.Machine.execFeed h entry ptr len go newState setState s
  | .draft h entry count toks => Sys2Proof.Machine.execDraft h entry count toks s
  | .release h entry => Sys2Proof.Machine.execRelease h entry s
  | .cancel h entry => Sys2Proof.Machine.execCancel h entry s
  | .setPrio h entry prio => Sys2Proof.Machine.execSetPrio h entry prio s
  | .setDeadline h entry lateAct dlNext dlEnd => Sys2Proof.Machine.execSetDeadline h entry lateAct dlNext dlEnd s
  | .pageEdit h entry index count => Sys2Proof.Machine.execPageEdit h entry index count s
  | .fence h => Sys2Proof.Machine.execFence h s
  | .reelLoad h slot addr => Sys2Proof.Machine.execReelLoad h slot addr s
  | .reelLoadComplete slot digest ue copiesOk => Sys2Proof.Machine.execReelLoadComplete slot digest ue copiesOk s
  | .reelUnload h slot => Sys2Proof.Machine.execReelUnload h slot s
  | .reelUnloadComplete slot digest => Sys2Proof.Machine.execReelUnloadComplete slot digest s
  | .objMap h obj desc stripe => Sys2Proof.Machine.execObjMap h obj desc stripe s
  | .claim h obj forBit => Sys2Proof.Machine.execClaim h obj forBit s
  | .unclaim h obj forBit => Sys2Proof.Machine.execUnclaim h obj forBit s
  | .objUnmap h obj => Sys2Proof.Machine.execObjUnmap h obj s
  | .tableLoad h queue slot gen addr img => Sys2Proof.Machine.execTableLoad h queue slot gen addr img s
  | .tableLoadEffect fn queue => Sys2Proof.Machine.execTableLoadEffect fn queue s
  | .overlayApply h slot source => Sys2Proof.Machine.execOverlayApply h slot source s
  | .statsSnapshot h ledgerN dest => Sys2Proof.Machine.execStatsSnapshot h ledgerN dest s
  | .ringFetch fn ring => Sys2Proof.Machine.execRingFetch fn ring s
  | .tenantCreate seq => Sys2Proof.Machine.execTenantCreate seq s
  | .tenantRemove seq => Sys2Proof.Machine.execTenantRemove seq s
  | .torusExport seq blobLen => Sys2Proof.Machine.execTorusExport seq blobLen s
  | .torusWrap seq verified blobLen => Sys2Proof.Machine.execTorusWrap seq verified blobLen s
  | .torusInstall seq verified torusId epochs => Sys2Proof.Machine.execTorusInstall seq verified torusId epochs s
  | .logRead seq => Sys2Proof.Machine.execLogRead seq s
  | .revocationComplete tenant => Sys2Proof.Machine.execRevocationComplete tenant s
  | .revokeDrained tenant => Sys2Proof.Machine.execRevokeDrained tenant s
  | .copy d => Sys2Proof.Machine.execCopy d s
  | .expandFb d => Sys2Proof.Machine.execExpandFb d s
  | .expandCt d => Sys2Proof.Machine.execExpandCt d s
  | .compress d => Sys2Proof.Machine.execCompress d s
  | .descFetchFail fn queue => Sys2Proof.Machine.execDescFetchFail fn queue s
  | .heldRecordFlush fn errorLog => Sys2Proof.Machine.execHeldRecordFlush fn errorLog s
  | .eventHoldoff fn => Sys2Proof.Machine.execEventHoldoff fn s
  | .pktWrite port p => Sys2Proof.Machine.execPktWrite port p s
  | .pktReadReq port p => Sys2Proof.Machine.execPktReadReq port p s
  | .pktReadResp port p => Sys2Proof.Machine.execPktReadResp port p s
  | .pktCheck port p => Sys2Proof.Machine.execPktCheck port p s
  | .pktCheckResp port p => Sys2Proof.Machine.execPktCheckResp port p s
  | .pktReduce port p => Sys2Proof.Machine.execPktReduce port p s
  | .pktBeacon port p => Sys2Proof.Machine.execPktBeacon port p s
  | .pktWrapDone port p => Sys2Proof.Machine.execPktWrapDone port p s
  | .pktRevoke port p => Sys2Proof.Machine.execPktRevoke port p s
  | .pktRevokeDone port p => Sys2Proof.Machine.execPktRevokeDone port p s
  | .reservedPacket port p => Sys2Proof.Machine.execReservedPacket port p s
  | .linkFlit port ack credits replay => Sys2Proof.Machine.execLinkFlit port ack credits replay s
  | .flitCrcFail port => Sys2Proof.Machine.execFlitCrcFail port s
  | .trainEnable port => Sys2Proof.Machine.execTrainEnable port s
  | .trainDisable port => Sys2Proof.Machine.execTrainDisable port s
  | .retrain port => Sys2Proof.Machine.execRetrain port s
  | .peerSeen port lanes => Sys2Proof.Machine.execPeerSeen port lanes s
  | .trainTimeout port unlocked => Sys2Proof.Machine.execTrainTimeout port unlocked s
  | .eqDone port converged => Sys2Proof.Machine.execEqDone port converged s
  | .trainLock port peerMask => Sys2Proof.Machine.execTrainLock port peerMask s
  | .configOk port rttPs peer reversed => Sys2Proof.Machine.execConfigOk port rttPs peer reversed s
  | .mismatch port => Sys2Proof.Machine.execMismatch port s
  | .laneFail port lane => Sys2Proof.Machine.execLaneFail port lane s
  | .widthOk port => Sys2Proof.Machine.execWidthOk port s
  | .noWidth port => Sys2Proof.Machine.execNoWidth port s
  | .embed x chunks => Sys2Proof.Machine.execEmbed x chunks s
  | .norm x => Sys2Proof.Machine.execNorm x s
  | .proj x => Sys2Proof.Machine.execProj x s
  | .rope x => Sys2Proof.Machine.execRope x s
  | .attn x ue => Sys2Proof.Machine.execAttn x ue s
  | .attnWalk x entry pair lane ue corrected => Sys2Proof.Machine.execAttnWalk x entry pair lane ue corrected s
  | .resid x => Sys2Proof.Machine.execResid x s
  | .actStage x => Sys2Proof.Machine.execActStage x s
  | .route x => Sys2Proof.Machine.execRoute x s
  | .expert x => Sys2Proof.Machine.execExpert x s
  | .combine x => Sys2Proof.Machine.execCombine x s
  | .lmhead x => Sys2Proof.Machine.execLmhead x s
  | .sample x => Sys2Proof.Machine.execSample x s
  | .streamPrefetch reel stage => Sys2Proof.Machine.execStreamPrefetch reel stage s
  | .modeSwitchProc stack chans run => Sys2Proof.Machine.execModeSwitchProc stack chans run s
  | .modeSwitchShared stack chans => Sys2Proof.Machine.execModeSwitchShared stack chans s
  | .collection stack => Sys2Proof.Machine.execCollection stack s
  | .readyPoll stack => Sys2Proof.Machine.execReadyPoll stack s
  | .nop u => Sys2Proof.Machine.execNop u s
  | .halt u => Sys2Proof.Machine.execHalt u s
  | .rep u a imm => Sys2Proof.Machine.execRep u a imm s
  | .bnz u a imm => Sys2Proof.Machine.execBnz u a imm s
  | .collect u a k => Sys2Proof.Machine.execCollect u a k s
  | .waitin u phase => Sys2Proof.Machine.execWaitin u phase s
  | .setw u codeW => Sys2Proof.Machine.execSetw u codeW s
  | .smov u d imm => Sys2Proof.Machine.execSmov u d imm s
  | .sadd u d a b => Sys2Proof.Machine.execSadd u d a b s
  | .saddi u d a imm => Sys2Proof.Machine.execSaddi u d a imm s
  | .smul u d a b => Sys2Proof.Machine.execSmul u d a b s
  | .sparam u d imm => Sys2Proof.Machine.execSparam u d imm s
  | .rld u a k staging => Sys2Proof.Machine.execRld u a k staging s
  | .rst u a k staging => Sys2Proof.Machine.execRst u a k staging s
  | .rwait u k => Sys2Proof.Machine.execRwait u k s
  | .vld u d a k inc => Sys2Proof.Machine.execVld u d a k inc s
  | .vst u d a k inc => Sys2Proof.Machine.execVst u d a k inc s
  | .vldx u d a k inc => Sys2Proof.Machine.execVldx u d a k inc s
  | .tb u d a b lane mode => Sys2Proof.Machine.execTb u d a b lane mode s
  | .lka u d a b k inc set => Sys2Proof.Machine.execLka u d a b k inc set s
  | .iadd u d a b => Sys2Proof.Machine.execIadd u d a b s
  | .isha u d a b => Sys2Proof.Machine.execIsha u d a b s
  | .cvti u d a => Sys2Proof.Machine.execCvti u d a s
  | .cvth u d a => Sys2Proof.Machine.execCvth u d a s
  | .fadd u d a b => Sys2Proof.Machine.execFadd u d a b s
  | .fsub u d a b => Sys2Proof.Machine.execFsub u d a b s
  | .fmul u d a b => Sys2Proof.Machine.execFmul u d a b s
  | .ffma u d a b => Sys2Proof.Machine.execFfma u d a b s
  | .fbc u d a lane => Sys2Proof.Machine.execFbc u d a lane s
  | .fred u d a => Sys2Proof.Machine.execFred u d a s
  | .fexp2 u d a => Sys2Proof.Machine.execFexp2 u d a s
  | .frsq u d a => Sys2Proof.Machine.execFrsq u d a s
  | .frcp u d a => Sys2Proof.Machine.execFrcp u d a s
  | .fsilu u d a => Sys2Proof.Machine.execFsilu u d a s
  | .fq16 u d a b half => Sys2Proof.Machine.execFq16 u d a b half s
  | .zero by_ => Sys2Proof.Machine.execZero by_ s
  | .rowCopy u d a => Sys2Proof.Machine.execRowCopy u d a s
  | .rowNot u d a => Sys2Proof.Machine.execRowNot u d a s
  | .rowAnd u d a b => Sys2Proof.Machine.execRowAnd u d a b s
  | .rowOr u d a b => Sys2Proof.Machine.execRowOr u d a b s
  | .rowXor u d a b => Sys2Proof.Machine.execRowXor u d a b s
  | .rowMaj3 u d a b => Sys2Proof.Machine.execRowMaj3 u d a b s
  | .refresh u => Sys2Proof.Machine.execRefresh u s
  | .targetedRefresh u row => Sys2Proof.Machine.execTargetedRefresh u row s
  | .patrolRead u row corrected uncorrectable => Sys2Proof.Machine.execPatrolRead u row corrected uncorrectable s
  | .dailyCheck d => Sys2Proof.Machine.execDailyCheck d s
  | .dailyRecheck stack obj block hostData => Sys2Proof.Machine.execDailyRecheck stack obj block hostData s
  | .migrationCopy engine obj copy => Sys2Proof.Machine.execMigrationCopy engine obj copy s
  | .doneClaimed obj => Sys2Proof.Machine.execDoneClaimed obj s
  | .doneUnclaimed obj => Sys2Proof.Machine.execDoneUnclaimed obj s
  | .granuleRelocate u gran => Sys2Proof.Machine.execGranuleRelocate u gran s
  | .boardPageFillDone page => Sys2Proof.Machine.execBoardPageFillDone page s
  | .amaxWriteout reel => Sys2Proof.Machine.execAmaxWriteout reel s
  | .apertureRead x r => Sys2Proof.Machine.execApertureRead x r s
  | .apertureWrite x data => Sys2Proof.Machine.execApertureWrite x data s
  | .epochEnd => Sys2Proof.Machine.execEpochEnd s
  | .canaryRead u k errorFree => Sys2Proof.Machine.execCanaryRead u k errorFree s
  | .monitorReport r => Sys2Proof.Machine.execMonitorReport r s
  | .coreRailUpdate => Sys2Proof.Machine.execCoreRailUpdate s
  | .governorSample pHub pArray pStack => Sys2Proof.Machine.execGovernorSample pHub pArray pStack s
  | .telemetryRenew => Sys2Proof.Machine.execTelemetryRenew s
  | .mr4Read step => Sys2Proof.Machine.execMr4Read step s
  | .thermTrip => Sys2Proof.Machine.execThermTrip s
  | .vrAlert => Sys2Proof.Machine.execVrAlert s
  | .pwrOkRise => Sys2Proof.Machine.execPwrOkRise s
  | .pwrOkFall => Sys2Proof.Machine.execPwrOkFall s
  | .perstRise bootSel => Sys2Proof.Machine.execPerstRise bootSel s
  | .perstFall => Sys2Proof.Machine.execPerstFall s
  | .bootComplete b => Sys2Proof.Machine.execBootComplete b s
  | .readLimitRewrite block r => Sys2Proof.Machine.execReadLimitRewrite block r s
  | .wearLevel lun src dst => Sys2Proof.Machine.execWearLevel lun src dst s
  | .flashProgramFail m => Sys2Proof.Machine.execFlashProgramFail m s
  | .flr fn => Sys2Proof.Machine.execFlr fn s
  | .pfFlr => Sys2Proof.Machine.execPfFlr s
  | .l0pRequest width => Sys2Proof.Machine.execL0pRequest width s
  | .l0pReduce => Sys2Proof.Machine.execL0pReduce s
  | .doeDiscovery fn index => Sys2Proof.Machine.execDoeDiscovery fn index s
  | .getMeasurements fn => Sys2Proof.Machine.execGetMeasurements fn s
  | .getReport fn nonce => Sys2Proof.Machine.execGetReport fn nonce s
  | .ideKm fn link program => Sys2Proof.Machine.execIdeKm fn link program s
  | .lockInterface fn => Sys2Proof.Machine.execLockInterface fn s
  | .stopInterface fn => Sys2Proof.Machine.execStopInterface fn s
  | .laneMargin active => Sys2Proof.Machine.execLaneMargin active s
  | .entdaa addr => Sys2Proof.Machine.execEntdaa addr s
  | .setdasa static dyn => Sys2Proof.Machine.execSetdasa static dyn s
  | .rstdaa => Sys2Proof.Machine.execRstdaa s
  | .getpid => Sys2Proof.Machine.execGetpid s
  | .getbcr => Sys2Proof.Machine.execGetbcr s
  | .getdcr => Sys2Proof.Machine.execGetdcr s
  | .getstatus => Sys2Proof.Machine.execGetstatus s
  | .getmxds => Sys2Proof.Machine.execGetmxds s
  | .enec => Sys2Proof.Machine.execEnec s
  | .disec => Sys2Proof.Machine.execDisec s
  | .privateWrite data => Sys2Proof.Machine.execPrivateWrite data s
  | .privateRead len => Sys2Proof.Machine.execPrivateRead len s
  | .extest => Sys2Proof.Machine.execExtest s
  | .samplePreload => Sys2Proof.Machine.execSamplePreload s
  | .bypass => Sys2Proof.Machine.execBypass s
  | .idcode => Sys2Proof.Machine.execIdcode s
  | .debugObserve off digest => Sys2Proof.Machine.execDebugObserve off digest s
  | .debugData part n digest => Sys2Proof.Machine.execDebugData part n digest s
  | .tapReset => Sys2Proof.Machine.execTapReset s
  | .configSpaceReady fn => Sys2Proof.Machine.execConfigSpaceReady fn s
  | .busMasterEnable fn v => Sys2Proof.Machine.execBusMasterEnable fn v s
  | .d3hot fn v => Sys2Proof.Machine.execD3hot fn v s
  | .startInterface fn => Sys2Proof.Machine.execStartInterface fn s
  | .tdiError fn => Sys2Proof.Machine.execTdiError fn s
  | .reportSigned fn => Sys2Proof.Machine.execReportSigned fn s
  | .boardMemoryRefresh chan rank bank => Sys2Proof.Machine.execBoardMemoryRefresh chan rank bank s

end Sys2Proof.Machine
end

