-- ==== Sys2Proof/WellFormed.lean ====
section
/-! DEFINITION. When a command's operands lie in the ranges that the manual gives them. A command outside them still has its
meaning: it changes nothing, or is refused as the manual says. -/
namespace Sys2Proof

/-- A function and a ring of it (R274, R387). -/
def CmdHdr.wf (h : CmdHdr) : Bool := h.fn < Config.functions && h.ring < 4

/-- A bank of the 32 stacks of 32 memory channels of 32 banks (01, Four levels). -/
def BankId.wf (u : BankId) : Bool := u.stack < Config.stackCnt && u.chan < Config.chans && u.bank < Config.banks

/-- A page of the register space starts at a multiple of 4 KiB of the 16 MiB of BAR0 (17). -/
def pageWf (page : Nat) : Bool := page % 0x1000 = 0 && page < 2 ^ 24

/-- A register's offset is a multiple of 8 (17). -/
def offWf (off : Nat) : Bool := off % 8 = 0 && off < 2 ^ 24

/-- A packet of the row with this OP on a port: its data is as long as LEN_M1 says where it carries data (R364). -/
def pktWf (op : Nat) (carries : Bool) (port : Nat) (p : Packet) : Bool :=
  port < Config.ports && p.op.toNat = op && (!carries || p.data.length = p.lenM1.toNat + 1)

/-- A stage's work: a reel slot, and one of at most 16,384 stages (R122). -/
def StageIn.wf (i : StageIn) : Bool := i.reel < Config.reelSlots && i.stage < 16384

/-- A DMA descriptor's queue, and an operation that the row is for (R310, R312). -/
def DmaIn.wf (d : DmaIn) (op : Nat) : Bool := d.fn < Config.functions && d.queue < 8 && d.desc.op.toNat = op

def ZeroBy.wf : ZeroBy → Bool
  | .unit u _ => u.wf
  | .hub u row => u.wf && row < Config.rowsPerBank

/-- What the data level of JTAG debug names: an array and how many of its bytes, a bank unit and its register, a bank and its row. -/
def DebugPart.wf (p : DebugPart) (n : Nat) : Bool :=
  match p with
  | .sram array | .accumulators array | .postUnit array => array < Config.arrays && n ≤ 2 ^ 24
  | .unitV u => u.wf && n < 32
  | .unitS u => u.wf && n < 16
  | .unitRb u => u.wf
  | .rows u => u.wf && n < Config.rowsPerBank

def HeadRing.wf : HeadRing → Bool
  | .output r => r < 64
  | _ => true

def Reading.wf : Reading → Bool
  | .replica array _ => array < Config.arrays
  | .eye port lane _ => port < Config.ports && lane < 48
  | _ => true

/-- The operands lie in their ranges. -/
def Instr.wf : Instr → Bool
  | .tick _ => true
  | .openCutoff => true
  | .rollBegin _ => true
  | .wrapDue _ _ => true
  | .rollComplete _ => true
  | .wrapResume => true
  | .frameInterrupt => true
  | .wrapDoneReport => true
  | .slipLimit => true
  | .failStorm => true
  | .ringStall => true
  | .fsyncEdge _ => true
  | .fsyncMiss => true
  | .fsyncLost => true
  | .beaconMiss => true
  | .beaconLost => true
  | .peerSilent dev => dev < 16
  | .run _ => true
  | .gate _ => true
  | .discard fn page => fn < Config.functions && pageWf page
  | .softReset page => pageWf page
  | .softResetDone page => pageWf page
  | .blkCtlEnable page _ => pageWf page
  | .haltAtTick page _ => pageWf page
  | .blkErrClear fn page _ => fn < Config.functions && pageWf page
  | .registerWrite fn off _ => fn < Config.functions && offWf off
  | .readToClear fn off => fn < Config.functions && offWf off
  | .hubTodWrite _ => true
  | .sqDoorbell fn ring _ => fn < Config.functions && ring < 4
  | .xpdTailWrite fn queue _ => fn < Config.functions && queue < 8
  | .ringHeadWrite fn ring _ => fn < Config.functions && ring.wf
  | .resume fn queue => fn < Config.functions && queue < 8
  | .csvFirstWrite fn _ => fn < Config.functions
  | .rgnBoundWrite stack chan _ => stack < Config.stackCnt && chan < Config.chans
  | .conversionDone stack => stack < Config.stackCnt
  | .cfgStageGo _ => true
  | .cfgStageDone => true
  | .erlResetKey _ => true
  | .runFirmware _ => true
  | .bootCopyA _ => true
  | .bootCopyB _ => true
  | .configBase _ => true
  | .reelsFile _ => true
  | .recoveryDone _ => true
  | .admitEntry h _ _ _ => h.wf
  | .feed h _ _ _ _ _ _ => h.wf
  | .draft h _ count toks => h.wf && toks.length = count.toNat && count.toNat ≤ 8
  | .release h _ => h.wf
  | .cancel h _ => h.wf
  | .setPrio h _ _ => h.wf
  | .setDeadline h _ _ _ _ => h.wf
  | .pageEdit h _ _ _ => h.wf
  | .fence h => h.wf
  | .reelLoad h _ _ => h.wf
  | .reelLoadComplete _ _ _ _ => true
  | .reelUnload h _ => h.wf
  | .reelUnloadComplete _ _ => true
  | .objMap h _ _ _ => h.wf
  | .claim h _ _ => h.wf
  | .unclaim h _ _ => h.wf
  | .objUnmap h _ => h.wf
  | .tableLoad h _ _ _ _ img => h.wf && img.all (·.lens.length = 256)
  | .tableLoadEffect fn queue => fn < Config.functions && queue < 8
  | .overlayApply h _ _ => h.wf
  | .statsSnapshot h _ _ => h.wf
  | .ringFetch fn ring => fn < Config.functions && ring < 4
  | .tenantCreate _ => true
  | .tenantRemove _ => true
  | .torusExport _ _ => true
  | .torusWrap _ _ _ => true
  | .torusInstall _ _ _ epochs => epochs.length = Config.tenants
  | .logRead _ => true
  | .revocationComplete tenant => tenant < Config.tenants
  | .revokeDrained tenant => tenant < Config.tenants
  | .copy d => d.wf 1
  | .expandFb d => d.wf 2
  | .expandCt d => d.wf 3
  | .compress d => d.wf 4
  | .descFetchFail fn queue => fn < Config.functions && queue < 8
  | .heldRecordFlush fn _ => fn < Config.functions
  | .eventHoldoff fn => fn < Config.functions
  | .pktWrite port p => pktWf 1 true port p
  | .pktReadReq port p => pktWf 2 false port p
  | .pktReadResp port p => pktWf 3 true port p
  | .pktCheck port p => pktWf 4 true port p
  | .pktCheckResp port p => pktWf 5 true port p
  | .pktReduce port p => pktWf 6 true port p
  | .pktBeacon port p => pktWf 7 true port p
  | .pktWrapDone port p => pktWf 8 true port p
  | .pktRevoke port p => pktWf 9 true port p
  | .pktRevokeDone port p => pktWf 10 true port p
  | .reservedPacket port p => port < Config.ports && (p.op.toNat = 0 || 11 ≤ p.op.toNat)
  | .linkFlit port _ _ replay => port < Config.ports && replay.all (· < 48)
  | .flitCrcFail port => port < Config.ports
  | .trainEnable port => port < Config.ports
  | .trainDisable port => port < Config.ports
  | .retrain port => port < Config.ports
  | .peerSeen port _ => port < Config.ports
  | .trainTimeout port _ => port < Config.ports
  | .eqDone port _ => port < Config.ports
  | .trainLock port _ => port < Config.ports
  | .configOk port _ _ _ => port < Config.ports
  | .mismatch port => port < Config.ports
  | .laneFail port lane => port < Config.ports && lane < 48
  | .widthOk port => port < Config.ports
  | .noWidth port => port < Config.ports
  | .embed i chunks => i.wf && chunks.all (·.entry < Config.entries)
  | .norm i => i.wf
  | .proj i => i.wf
  | .rope i => i.wf
  | .attn i ue => i.wf && ue.all (·.entry < Config.entries)
  | .attnWalk i entry _ _ _ _ => i.wf && entry < Config.entries
  | .resid i => i.wf
  | .actStage i => i.wf
  | .route i => i.wf
  | .expert i => i.wf
  | .combine i => i.wf
  | .lmhead i => i.wf
  | .sample i => i.wf
  | .streamPrefetch reel stage => reel < Config.reelSlots && stage < 16384
  | .modeSwitchProc stack _ r => stack < Config.stackCnt && r.reel < Config.reelSlots && r.stage < 16384
  | .modeSwitchShared stack _ => stack < Config.stackCnt
  | .collection stack => stack < Config.stackCnt
  | .readyPoll stack => stack < Config.stackCnt
  | .nop u => u.wf
  | .halt u => u.wf
  | .rep u _ _ => u.wf
  | .bnz u _ _ => u.wf
  | .collect u _ _ => u.wf
  | .waitin u _ => u.wf
  | .setw u codeW => u.wf && codeW.ult 6
  | .smov u _ _ => u.wf
  | .sadd u _ _ _ => u.wf
  | .saddi u _ _ _ => u.wf
  | .smul u _ _ _ => u.wf
  | .sparam u _ imm => u.wf && imm.ult 4
  | .rld u _ _ _ => u.wf
  | .rst u _ _ _ => u.wf
  | .rwait u _ => u.wf
  | .vld u _ _ _ _ => u.wf
  | .vst u _ _ _ _ => u.wf
  | .vldx u _ _ _ _ => u.wf
  | .tb u _ _ _ _ mode => u.wf && mode != 3
  | .lka u d _ _ _ _ _ => u.wf && !d.getLsbD 0
  | .iadd u _ _ _ => u.wf
  | .isha u _ _ _ => u.wf
  | .cvti u _ _ => u.wf
  | .cvth u _ _ => u.wf
  | .fadd u _ _ _ => u.wf
  | .fsub u _ _ _ => u.wf
  | .fmul u _ _ _ => u.wf
  | .ffma u _ _ _ => u.wf
  | .fbc u _ _ _ => u.wf
  | .fred u _ _ => u.wf
  | .fexp2 u _ _ => u.wf
  | .frsq u _ _ => u.wf
  | .frcp u _ _ => u.wf
  | .fsilu u _ _ => u.wf
  | .fq16 u _ _ _ _ => u.wf
  | .zero b => b.wf
  | .rowCopy u _ _ => u.wf
  | .rowNot u _ _ => u.wf
  | .rowAnd u _ _ _ => u.wf
  | .rowOr u _ _ _ => u.wf
  | .rowXor u _ _ _ => u.wf
  | .rowMaj3 u _ _ _ => u.wf
  | .refresh u => u.wf
  | .targetedRefresh u row => u.wf && row < Config.rowsPerBank
  | .patrolRead u row _ _ => u.wf && row < Config.rowsPerBank
  | .dailyCheck d => d.stack < Config.stackCnt && d.stuck.all fun r => r.1 < 32768 && r.2 < Config.rowsPerBank
  | .dailyRecheck stack obj _ _ => stack < Config.stackCnt && obj < Config.objects
  | .migrationCopy engine obj _ => engine < 2 && obj < Config.objects
  | .doneClaimed obj => obj < Config.objects
  | .doneUnclaimed obj => obj < Config.objects
  | .granuleRelocate u gran => u.wf && gran < Config.granulesPerBank
  | .boardPageFillDone _ => true
  | .amaxWriteout reel => reel < Config.reelSlots
  | .apertureRead x r => x + r.len ≤ 2 ^ 36
  | .apertureWrite x data => x + data.length ≤ 2 ^ 36
  | .epochEnd => true
  | .canaryRead u k _ => u.wf && 2 ≤ k && k ≤ 8
  | .monitorReport r => r.wf
  | .coreRailUpdate => true
  | .governorSample _ _ _ => true
  | .telemetryRenew => true
  | .mr4Read _ => true
  | .thermTrip => true
  | .vrAlert => true
  | .pwrOkRise => true
  | .pwrOkFall => true
  | .perstRise _ => true
  | .perstFall => true
  | .bootComplete _ => true
  | .readLimitRewrite block r => block ≠ r.fresh && r.uncorr ≤ r.retried && r.retried ≤ r.reads
  | .wearLevel _ src dst => src < 2 ^ 16 && dst < 2 ^ 16 && src ≠ dst
  | .flashProgramFail m => m.block ≠ m.fresh
  | .flr fn => 1 ≤ fn && fn < Config.functions
  | .pfFlr => true
  | .l0pRequest _ => true
  | .l0pReduce => true
  | .doeDiscovery fn _ => fn < Config.functions
  | .getMeasurements fn => fn < Config.functions
  | .getReport fn _ => fn < Config.functions
  | .ideKm fn _ _ => fn < Config.functions
  | .lockInterface fn => 1 ≤ fn && fn < Config.functions
  | .stopInterface fn => 1 ≤ fn && fn < Config.functions
  | .laneMargin _ => true
  | .entdaa _ => true
  | .setdasa _ _ => true
  | .rstdaa => true
  | .getpid => true
  | .getbcr => true
  | .getdcr => true
  | .getstatus => true
  | .getmxds => true
  | .enec => true
  | .disec => true
  | .privateWrite _ => true
  | .privateRead _ => true
  | .extest => true
  | .samplePreload => true
  | .bypass => true
  | .idcode => true
  | .debugObserve off _ => offWf off
  | .debugData p n _ => p.wf n
  | .tapReset => true
  | .configSpaceReady fn => fn < Config.functions
  | .busMasterEnable fn _ => fn < Config.functions
  | .d3hot fn _ => fn < Config.functions
  | .startInterface fn => 1 ≤ fn && fn < Config.functions
  | .tdiError fn => 1 ≤ fn && fn < Config.functions
  | .reportSigned fn => fn < Config.functions
  | .boardMemoryRefresh chan rank _ => chan < 16 && rank < 2

end Sys2Proof
end

