-- ==== Sys2Proof/Laws/PerInstr.lean ====
section
/-! SUPPORT. Statements about every command, one lemma for each. `RingForm`: a well-formed command that is read from a submission ring
names a function and a ring that exist (R274, R387), and every other command names none. -/
namespace Sys2Proof.Laws.RingForm

open Sys2Proof.Machine

/-- The function and the ring that a well-formed command of a ring names exist. -/
def Statement (i : Instr) : Prop := ∀ h, cmdHdrOf i = some h → i.wf = true → h.fn < 32 ∧ h.ring < 4

theorem other {i : Instr} (n : cmdHdrOf i = none) : Statement i := by
  intro h e
  rw [n] at e
  exact absurd e (by simp)

theorem hdr_wf {h : CmdHdr} (w : h.wf = true) : h.fn < 32 ∧ h.ring < 4 := by
  simp only [CmdHdr.wf, Bool.and_eq_true, decide_eq_true_eq] at w
  exact w

theorem tick (i : TickIn) : Statement (.tick i) := other rfl
theorem openCutoff : Statement (.openCutoff) := other rfl
theorem rollBegin (gatherClk : List Nat) : Statement (.rollBegin gatherClk) := other rfl
theorem wrapDue (r : RollReport) (rollComplete : Bool) : Statement (.wrapDue r rollComplete) := other rfl
theorem rollComplete (r : RollReport) : Statement (.rollComplete r) := other rfl
theorem wrapResume : Statement (.wrapResume) := other rfl
theorem frameInterrupt : Statement (.frameInterrupt) := other rfl
theorem wrapDoneReport : Statement (.wrapDoneReport) := other rfl
theorem slipLimit : Statement (.slipLimit) := other rfl
theorem failStorm : Statement (.failStorm) := other rfl
theorem ringStall : Statement (.ringStall) := other rfl
theorem fsyncEdge (offsetNs : Int) : Statement (.fsyncEdge offsetNs) := other rfl
theorem fsyncMiss : Statement (.fsyncMiss) := other rfl
theorem fsyncLost : Statement (.fsyncLost) := other rfl
theorem beaconMiss : Statement (.beaconMiss) := other rfl
theorem beaconLost : Statement (.beaconLost) := other rfl
theorem peerSilent (dev : Nat) : Statement (.peerSilent dev) := other rfl
theorem run (v : Bool) : Statement (.run v) := other rfl
theorem gate (v : Bool) : Statement (.gate v) := other rfl
theorem discard (fn page : Nat) : Statement (.discard fn page) := other rfl
theorem softReset (page : Nat) : Statement (.softReset page) := other rfl
theorem softResetDone (page : Nat) : Statement (.softResetDone page) := other rfl
theorem blkCtlEnable (page : Nat) (v : Bool) : Statement (.blkCtlEnable page v) := other rfl
theorem haltAtTick (page : Nat) (v : Bool) : Statement (.haltAtTick page v) := other rfl
theorem blkErrClear (fn page : Nat) (mask : W32) : Statement (.blkErrClear fn page mask) := other rfl
theorem registerWrite (fn off : Nat) (v : W64) : Statement (.registerWrite fn off v) := other rfl
theorem readToClear (fn off : Nat) : Statement (.readToClear fn off) := other rfl
theorem hubTodWrite (v : W64) : Statement (.hubTodWrite v) := other rfl
theorem sqDoorbell (fn ring : Nat) (tail : W32) : Statement (.sqDoorbell fn ring tail) := other rfl
theorem xpdTailWrite (fn queue : Nat) (tail : W32) : Statement (.xpdTailWrite fn queue tail) := other rfl
theorem ringHeadWrite (fn : Nat) (ring : HeadRing) (head : W32) : Statement (.ringHeadWrite fn ring head) := other rfl
theorem resume (fn queue : Nat) : Statement (.resume fn queue) := other rfl
theorem csvFirstWrite (fn : Nat) (first : BitVec 13) : Statement (.csvFirstWrite fn first) := other rfl
theorem rgnBoundWrite (stack chan : Nat) (bound : BitVec 6) : Statement (.rgnBoundWrite stack chan bound) := other rfl
theorem conversionDone (stack : Nat) : Statement (.conversionDone stack) := other rfl
theorem cfgStageGo (img : Option CfgImage) : Statement (.cfgStageGo img) := other rfl
theorem cfgStageDone : Statement (.cfgStageDone) := other rfl
theorem erlResetKey (key : W16) : Statement (.erlResetKey key) := other rfl
theorem runFirmware (verified : Bool) : Statement (.runFirmware verified) := other rfl
theorem bootCopyA (verified : Bool) : Statement (.bootCopyA verified) := other rfl
theorem bootCopyB (verified : Bool) : Statement (.bootCopyB verified) := other rfl
theorem configBase (img : Option CfgImage) : Statement (.configBase img) := other rfl
theorem reelsFile (file : FileIn) : Statement (.reelsFile file) := other rfl
theorem recoveryDone (ok : Bool) : Statement (.recoveryDone ok) := other rfl
theorem admitEntry (h : CmdHdr) (entry : W16) (img : Option AdmitImage) (ue : List Nat) : Statement (.admitEntry h entry img ue) := by
  intro _ e w
  cases e
  exact hdr_wf w
theorem feed (h : CmdHdr) (entry : W16) (ptr : W64) (len : BitVec 22) (go : Bool) (newState : W16) (setState : Bool) :
    Statement (.feed h entry ptr len go newState setState) := by
  intro _ e w
  cases e
  exact hdr_wf w
theorem draft (h : CmdHdr) (entry : W16) (count : BitVec 4) (toks : List (BitVec 18)) : Statement (.draft h entry count toks) := by
  intro _ e w
  cases e
  simp only [Instr.wf, Bool.and_eq_true] at w
  exact hdr_wf w.1.1
theorem release (h : CmdHdr) (entry : W16) : Statement (.release h entry) := by
  intro _ e w
  cases e
  exact hdr_wf w
theorem cancel (h : CmdHdr) (entry : W16) : Statement (.cancel h entry) := by
  intro _ e w
  cases e
  exact hdr_wf w
theorem setPrio (h : CmdHdr) (entry : W16) (prio : BitVec 3) : Statement (.setPrio h entry prio) := by
  intro _ e w
  cases e
  exact hdr_wf w
theorem setDeadline (h : CmdHdr) (entry : W16) (lateAct : BitVec 2) (dlNext : W16) (dlEnd : BitVec 48) :
    Statement (.setDeadline h entry lateAct dlNext dlEnd) := by
  intro _ e w
  cases e
  exact hdr_wf w
theorem pageEdit (h : CmdHdr) (entry : W16) (index count : BitVec 10) : Statement (.pageEdit h entry index count) := by
  intro _ e w
  cases e
  exact hdr_wf w
theorem fence (h : CmdHdr) : Statement (.fence h) := by
  intro _ e w
  cases e
  exact hdr_wf w
theorem reelLoad (h : CmdHdr) (slot : BitVec 2) (addr : W64) : Statement (.reelLoad h slot addr) := by
  intro _ e w
  cases e
  exact hdr_wf w
theorem reelLoadComplete (slot : BitVec 2) (digest : BitVec 384) (ue : List Nat) (copiesOk : Bool) :
    Statement (.reelLoadComplete slot digest ue copiesOk) := other rfl
theorem reelUnload (h : CmdHdr) (slot : BitVec 2) : Statement (.reelUnload h slot) := by
  intro _ e w
  cases e
  exact hdr_wf w
theorem reelUnloadComplete (slot : BitVec 2) (digest : BitVec 384) : Statement (.reelUnloadComplete slot digest) := other rfl
theorem objMap (h : CmdHdr) (obj : W16) (desc : Option ObjDesc) (stripe : Option StripeDesc) : Statement (.objMap h obj desc stripe) := by
  intro _ e w
  cases e
  exact hdr_wf w
theorem claim (h : CmdHdr) (obj : W16) (forBit : BitVec 6) : Statement (.claim h obj forBit) := by
  intro _ e w
  cases e
  exact hdr_wf w
theorem unclaim (h : CmdHdr) (obj : W16) (forBit : BitVec 6) : Statement (.unclaim h obj forBit) := by
  intro _ e w
  cases e
  exact hdr_wf w
theorem objUnmap (h : CmdHdr) (obj : W16) : Statement (.objUnmap h obj) := by
  intro _ e w
  cases e
  exact hdr_wf w
theorem tableLoad (h : CmdHdr) (queue : BitVec 3) (slot : BitVec 4) (gen : Byte) (addr : W64) (img : Option TableImage) :
    Statement (.tableLoad h queue slot gen addr img) := by
  intro _ e w
  cases e
  simp only [Instr.wf, Bool.and_eq_true] at w
  exact hdr_wf w.1
theorem tableLoadEffect (fn queue : Nat) : Statement (.tableLoadEffect fn queue) := other rfl
theorem overlayApply (h : CmdHdr) (slot : BitVec 3) (source : BitVec 2) : Statement (.overlayApply h slot source) := by
  intro _ e w
  cases e
  exact hdr_wf w
theorem statsSnapshot (h : CmdHdr) (ledgerN : BitVec 6) (dest : W64) : Statement (.statsSnapshot h ledgerN dest) := by
  intro _ e w
  cases e
  exact hdr_wf w
theorem ringFetch (fn ring : Nat) : Statement (.ringFetch fn ring) := other rfl
theorem tenantCreate (seq : Byte) : Statement (.tenantCreate seq) := other rfl
theorem tenantRemove (seq : Byte) : Statement (.tenantRemove seq) := other rfl
theorem torusExport (seq : Byte) (blobLen : Nat) : Statement (.torusExport seq blobLen) := other rfl
theorem torusWrap (seq : Byte) (verified : Bool) (blobLen : Nat) : Statement (.torusWrap seq verified blobLen) := other rfl
theorem torusInstall (seq : Byte) (verified : Bool) (torusId : BitVec 128) (epochs : List W32) :
    Statement (.torusInstall seq verified torusId epochs) := other rfl
theorem logRead (seq : Byte) : Statement (.logRead seq) := other rfl
theorem revocationComplete (tenant : Nat) : Statement (.revocationComplete tenant) := other rfl
theorem revokeDrained (tenant : Nat) : Statement (.revokeDrained tenant) := other rfl
theorem copy (d : DmaIn) : Statement (.copy d) := other rfl
theorem expandFb (d : DmaIn) : Statement (.expandFb d) := other rfl
theorem expandCt (d : DmaIn) : Statement (.expandCt d) := other rfl
theorem compress (d : DmaIn) : Statement (.compress d) := other rfl
theorem descFetchFail (fn queue : Nat) : Statement (.descFetchFail fn queue) := other rfl
theorem heldRecordFlush (fn : Nat) (errorLog : Bool) : Statement (.heldRecordFlush fn errorLog) := other rfl
theorem eventHoldoff (fn : Nat) : Statement (.eventHoldoff fn) := other rfl
theorem pktWrite (port : Nat) (p : Packet) : Statement (.pktWrite port p) := other rfl
theorem pktReadReq (port : Nat) (p : Packet) : Statement (.pktReadReq port p) := other rfl
theorem pktReadResp (port : Nat) (p : Packet) : Statement (.pktReadResp port p) := other rfl
theorem pktCheck (port : Nat) (p : Packet) : Statement (.pktCheck port p) := other rfl
theorem pktCheckResp (port : Nat) (p : Packet) : Statement (.pktCheckResp port p) := other rfl
theorem pktReduce (port : Nat) (p : Packet) : Statement (.pktReduce port p) := other rfl
theorem pktBeacon (port : Nat) (p : Packet) : Statement (.pktBeacon port p) := other rfl
theorem pktWrapDone (port : Nat) (p : Packet) : Statement (.pktWrapDone port p) := other rfl
theorem pktRevoke (port : Nat) (p : Packet) : Statement (.pktRevoke port p) := other rfl
theorem pktRevokeDone (port : Nat) (p : Packet) : Statement (.pktRevokeDone port p) := other rfl
theorem reservedPacket (port : Nat) (p : Packet) : Statement (.reservedPacket port p) := other rfl
theorem linkFlit (port : Nat) (ack : BitVec 12) (credits : List (Nat × Nat)) (replay : Option Nat) :
    Statement (.linkFlit port ack credits replay) := other rfl
theorem flitCrcFail (port : Nat) : Statement (.flitCrcFail port) := other rfl
theorem trainEnable (port : Nat) : Statement (.trainEnable port) := other rfl
theorem trainDisable (port : Nat) : Statement (.trainDisable port) := other rfl
theorem retrain (port : Nat) : Statement (.retrain port) := other rfl
theorem peerSeen (port : Nat) (lanes : BitVec 48) : Statement (.peerSeen port lanes) := other rfl
theorem trainTimeout (port : Nat) (unlocked : BitVec 48) : Statement (.trainTimeout port unlocked) := other rfl
theorem eqDone (port : Nat) (converged : BitVec 48) : Statement (.eqDone port converged) := other rfl
theorem trainLock (port : Nat) (peerMask : BitVec 48) : Statement (.trainLock port peerMask) := other rfl
theorem configOk (port : Nat) (rttPs : Nat) (peer : BitVec 4) (reversed : Bool) : Statement (.configOk port rttPs peer reversed) := other rfl
theorem mismatch (port : Nat) : Statement (.mismatch port) := other rfl
theorem laneFail (port : Nat) (lane : Nat) : Statement (.laneFail port lane) := other rfl
theorem widthOk (port : Nat) : Statement (.widthOk port) := other rfl
theorem noWidth (port : Nat) : Statement (.noWidth port) := other rfl
theorem embed (i : StageIn) (chunks : List ChunkTokens) : Statement (.embed i chunks) := other rfl
theorem norm (i : StageIn) : Statement (.norm i) := other rfl
theorem proj (i : StageIn) : Statement (.proj i) := other rfl
theorem rope (i : StageIn) : Statement (.rope i) := other rfl
theorem attn (i : StageIn) (ue : List CacheUe) : Statement (.attn i ue) := other rfl
theorem attnWalk (i : StageIn) (entry pair lane : Nat) (bad corr : List KvRead) : Statement (.attnWalk i entry pair lane bad corr) := other rfl
theorem resid (i : StageIn) : Statement (.resid i) := other rfl
theorem actStage (i : StageIn) : Statement (.actStage i) := other rfl
theorem route (i : StageIn) : Statement (.route i) := other rfl
theorem expert (i : StageIn) : Statement (.expert i) := other rfl
theorem combine (i : StageIn) : Statement (.combine i) := other rfl
theorem lmhead (i : StageIn) : Statement (.lmhead i) := other rfl
theorem sample (i : StageIn) : Statement (.sample i) := other rfl
theorem streamPrefetch (reel stage : Nat) : Statement (.streamPrefetch reel stage) := other rfl
theorem modeSwitchProc (stack : Nat) (chans : BitVec 32) (run : RunIn) : Statement (.modeSwitchProc stack chans run) := other rfl
theorem modeSwitchShared (stack : Nat) (chans : BitVec 32) : Statement (.modeSwitchShared stack chans) := other rfl
theorem collection (stack : Nat) : Statement (.collection stack) := other rfl
theorem readyPoll (stack : Nat) : Statement (.readyPoll stack) := other rfl
theorem nop (u : BankId) : Statement (.nop u) := other rfl
theorem halt (u : BankId) : Statement (.halt u) := other rfl
theorem rep (u : BankId) (a : BitVec 4) (imm : BitVec 5) : Statement (.rep u a imm) := other rfl
theorem bnz (u : BankId) (a : BitVec 4) (imm : BitVec 9) : Statement (.bnz u a imm) := other rfl
theorem collect (u : BankId) (a : BitVec 4) (k : BitVec 3) : Statement (.collect u a k) := other rfl
theorem waitin (u : BankId) (phase : BitVec 1) : Statement (.waitin u phase) := other rfl
theorem setw (u : BankId) (codeW : BitVec 3) : Statement (.setw u codeW) := other rfl
theorem smov (u : BankId) (d : BitVec 4) (imm : BitVec 9) : Statement (.smov u d imm) := other rfl
theorem sadd (u : BankId) (d a b : BitVec 4) : Statement (.sadd u d a b) := other rfl
theorem saddi (u : BankId) (d a : BitVec 4) (imm : BitVec 9) : Statement (.saddi u d a imm) := other rfl
theorem smul (u : BankId) (d a b : BitVec 4) : Statement (.smul u d a b) := other rfl
theorem sparam (u : BankId) (d : BitVec 4) (imm : BitVec 9) : Statement (.sparam u d imm) := other rfl
theorem rld (u : BankId) (a : BitVec 4) (k : BitVec 3) (staging : Bool) : Statement (.rld u a k staging) := other rfl
theorem rst (u : BankId) (a : BitVec 4) (k : BitVec 3) (staging : Bool) : Statement (.rst u a k staging) := other rfl
theorem rwait (u : BankId) (k : BitVec 3) : Statement (.rwait u k) := other rfl
theorem vld (u : BankId) (d : BitVec 5) (a : BitVec 4) (k : BitVec 3) (inc : Bool) : Statement (.vld u d a k inc) := other rfl
theorem vst (u : BankId) (d : BitVec 5) (a : BitVec 4) (k : BitVec 3) (inc : Bool) : Statement (.vst u d a k inc) := other rfl
theorem vldx (u : BankId) (d : BitVec 5) (a : BitVec 4) (k : BitVec 3) (inc : Bool) : Statement (.vldx u d a k inc) := other rfl
theorem tb (u : BankId) (d a : BitVec 5) (b : BitVec 4) (lane : BitVec 4) (mode : BitVec 2) : Statement (.tb u d a b lane mode) := other rfl
theorem lka (u : BankId) (d : BitVec 5) (a b : BitVec 4) (k : BitVec 3) (inc set : Bool) : Statement (.lka u d a b k inc set) := other rfl
theorem iadd (u : BankId) (d a b : BitVec 5) : Statement (.iadd u d a b) := other rfl
theorem isha (u : BankId) (d a b : BitVec 5) : Statement (.isha u d a b) := other rfl
theorem cvti (u : BankId) (d a : BitVec 5) : Statement (.cvti u d a) := other rfl
theorem cvth (u : BankId) (d a : BitVec 5) : Statement (.cvth u d a) := other rfl
theorem fadd (u : BankId) (d a b : BitVec 5) : Statement (.fadd u d a b) := other rfl
theorem fsub (u : BankId) (d a b : BitVec 5) : Statement (.fsub u d a b) := other rfl
theorem fmul (u : BankId) (d a b : BitVec 5) : Statement (.fmul u d a b) := other rfl
theorem ffma (u : BankId) (d a b : BitVec 5) : Statement (.ffma u d a b) := other rfl
theorem fbc (u : BankId) (d a : BitVec 5) (lane : BitVec 3) : Statement (.fbc u d a lane) := other rfl
theorem fred (u : BankId) (d a : BitVec 5) : Statement (.fred u d a) := other rfl
theorem fexp2 (u : BankId) (d a : BitVec 5) : Statement (.fexp2 u d a) := other rfl
theorem frsq (u : BankId) (d a : BitVec 5) : Statement (.frsq u d a) := other rfl
theorem frcp (u : BankId) (d a : BitVec 5) : Statement (.frcp u d a) := other rfl
theorem fsilu (u : BankId) (d a : BitVec 5) : Statement (.fsilu u d a) := other rfl
theorem fq16 (u : BankId) (d a b : BitVec 5) (half : BitVec 1) : Statement (.fq16 u d a b half) := other rfl
theorem zero (by_ : ZeroBy) : Statement (.zero by_) := other rfl
theorem rowCopy (u : BankId) (d a : BitVec 4) : Statement (.rowCopy u d a) := other rfl
theorem rowNot (u : BankId) (d a : BitVec 4) : Statement (.rowNot u d a) := other rfl
theorem rowAnd (u : BankId) (d a b : BitVec 4) : Statement (.rowAnd u d a b) := other rfl
theorem rowOr (u : BankId) (d a b : BitVec 4) : Statement (.rowOr u d a b) := other rfl
theorem rowXor (u : BankId) (d a b : BitVec 4) : Statement (.rowXor u d a b) := other rfl
theorem rowMaj3 (u : BankId) (d a b : BitVec 4) : Statement (.rowMaj3 u d a b) := other rfl
theorem refresh (u : BankId) : Statement (.refresh u) := other rfl
theorem targetedRefresh (u : BankId) (row : Nat) : Statement (.targetedRefresh u row) := other rfl
theorem patrolRead (u : BankId) (row : Nat) (corrected uncorrectable : Nat) : Statement (.patrolRead u row corrected uncorrectable) := other rfl
theorem dailyCheck (d : DailyIn) : Statement (.dailyCheck d) := other rfl
theorem dailyRecheck (stack obj block : Nat) (hostData : Option Bytes) : Statement (.dailyRecheck stack obj block hostData) := other rfl
theorem migrationCopy (engine obj : Nat) (copy : CopyIn) : Statement (.migrationCopy engine obj copy) := other rfl
theorem doneClaimed (obj : Nat) : Statement (.doneClaimed obj) := other rfl
theorem doneUnclaimed (obj : Nat) : Statement (.doneUnclaimed obj) := other rfl
theorem granuleRelocate (u : BankId) (gran : Nat) : Statement (.granuleRelocate u gran) := other rfl
theorem boardPageFillDone (page : Nat) : Statement (.boardPageFillDone page) := other rfl
theorem amaxWriteout (reel : Nat) : Statement (.amaxWriteout reel) := other rfl
theorem apertureRead (x : Nat) (r : ReadIn) : Statement (.apertureRead x r) := other rfl
theorem apertureWrite (x : Nat) (data : Bytes) : Statement (.apertureWrite x data) := other rfl
theorem epochEnd : Statement (.epochEnd) := other rfl
theorem canaryRead (u : BankId) (k : Nat) (errorFree : Bool) : Statement (.canaryRead u k errorFree) := other rfl
theorem monitorReport (r : Reading) : Statement (.monitorReport r) := other rfl
theorem coreRailUpdate : Statement (.coreRailUpdate) := other rfl
theorem governorSample (pHub pArray pStack : Nat) : Statement (.governorSample pHub pArray pStack) := other rfl
theorem telemetryRenew : Statement (.telemetryRenew) := other rfl
theorem mr4Read (step : BitVec 2) : Statement (.mr4Read step) := other rfl
theorem thermTrip : Statement (.thermTrip) := other rfl
theorem vrAlert : Statement (.vrAlert) := other rfl
theorem pwrOkRise : Statement (.pwrOkRise) := other rfl
theorem pwrOkFall : Statement (.pwrOkFall) := other rfl
theorem perstRise (bootSel : BitVec 2) : Statement (.perstRise bootSel) := other rfl
theorem perstFall : Statement (.perstFall) := other rfl
theorem bootComplete (b : BootIn) : Statement (.bootComplete b) := other rfl
theorem readLimitRewrite (block : Nat) (r : FlashRead) : Statement (.readLimitRewrite block r) := other rfl
theorem wearLevel (lun src dst : Nat) : Statement (.wearLevel lun src dst) := other rfl
theorem flashProgramFail (m : FlashMove) : Statement (.flashProgramFail m) := other rfl
theorem flr (fn : Nat) : Statement (.flr fn) := other rfl
theorem pfFlr : Statement (.pfFlr) := other rfl
theorem l0pRequest (width : BitVec 5) : Statement (.l0pRequest width) := other rfl
theorem l0pReduce : Statement (.l0pReduce) := other rfl
theorem doeDiscovery (fn : Nat) (index : Byte) : Statement (.doeDiscovery fn index) := other rfl
theorem getMeasurements (fn : Nat) : Statement (.getMeasurements fn) := other rfl
theorem getReport (fn : Nat) (nonce : BitVec 256) : Statement (.getReport fn nonce) := other rfl
theorem ideKm (fn : Nat) (link : Bool) (program : Bool) : Statement (.ideKm fn link program) := other rfl
theorem lockInterface (fn : Nat) : Statement (.lockInterface fn) := other rfl
theorem stopInterface (fn : Nat) : Statement (.stopInterface fn) := other rfl
theorem laneMargin (active : Bool) : Statement (.laneMargin active) := other rfl
theorem entdaa (addr : BitVec 7) : Statement (.entdaa addr) := other rfl
theorem setdasa (static dyn : BitVec 7) : Statement (.setdasa static dyn) := other rfl
theorem rstdaa : Statement (.rstdaa) := other rfl
theorem getpid : Statement (.getpid) := other rfl
theorem getbcr : Statement (.getbcr) := other rfl
theorem getdcr : Statement (.getdcr) := other rfl
theorem getstatus : Statement (.getstatus) := other rfl
theorem getmxds : Statement (.getmxds) := other rfl
theorem enec : Statement (.enec) := other rfl
theorem disec : Statement (.disec) := other rfl
theorem privateWrite (data : Bytes) : Statement (.privateWrite data) := other rfl
theorem privateRead (len : Nat) : Statement (.privateRead len) := other rfl
theorem extest : Statement (.extest) := other rfl
theorem samplePreload : Statement (.samplePreload) := other rfl
theorem bypass : Statement (.bypass) := other rfl
theorem idcode : Statement (.idcode) := other rfl
theorem debugObserve (off : Nat) (digest : BitVec 384) : Statement (.debugObserve off digest) := other rfl
theorem debugData (part : DebugPart) (n : Nat) (digest : BitVec 384) : Statement (.debugData part n digest) := other rfl
theorem tapReset : Statement (.tapReset) := other rfl
theorem configSpaceReady (fn : Nat) : Statement (.configSpaceReady fn) := other rfl
theorem busMasterEnable (fn : Nat) (v : Bool) : Statement (.busMasterEnable fn v) := other rfl
theorem d3hot (fn : Nat) (v : Bool) : Statement (.d3hot fn v) := other rfl
theorem startInterface (fn : Nat) : Statement (.startInterface fn) := other rfl
theorem tdiError (fn : Nat) : Statement (.tdiError fn) := other rfl
theorem reportSigned (fn : Nat) : Statement (.reportSigned fn) := other rfl
theorem boardMemoryRefresh (chan rank bank : Nat) : Statement (.boardMemoryRefresh chan rank bank) := other rfl

end Sys2Proof.Laws.RingForm
end

