-- ==== Sys2Proof/Safety.lean ====
section
/-! DEFINITION. What a safe run is, and the words in which the statements speak of a command's effect. -/
namespace Sys2Proof

open Sys2Proof.Machine

/-- The next `n` steps from `s` all answer a next state. -/
def SafeFor : Nat → Machine.State → Prop
  | 0, _ => True
  | n + 1, s => ∃ t, Machine.step s = .next t ∧ SafeFor n t

/-- The command completes: it answers a next state with the queue as it was, of which `P` holds. -/
def Completes (c : Instr) (s : Machine.State) (P : Machine.State → Prop) : Prop :=
  ∃ t, Machine.exec c s = .next t ∧ t.pending = s.pending ∧ P t

/-- Slate reads a command of this ring at once (R38, R386). -/
def ReadsRing (s : Machine.State) (h : CmdHdr) : Prop :=
  running s = true ∧ slateOpen s = true ∧ sqReady s h.fn h.ring = true

/-- A FRAME-class error has been raised between two states: counted in its class, held, and given a SEQ (R484, R486). -/
def FrameErrorRaised (s t : Machine.State) : Prop :=
  rd0 t ERL_HELD_FRAME = 1 ∧ rd0 t ERL_CNT_FRAME = min (rd0 s ERL_CNT_FRAME + 1) (2 ^ ERL_CNT_FRAME.width - 1)
    ∧ t.erl.seq = (s.erl.seq + 1) % 2 ^ 32

/-- A TENANT-class error has been raised between two states: counted in its class, and given a SEQ (R484, R486). -/
def TenantErrorRaised (s t : Machine.State) : Prop :=
  rd0 t ERL_CNT_TENANT = min (rd0 s ERL_CNT_TENANT + 1) (2 ^ ERL_CNT_TENANT.width - 1) ∧ t.erl.seq = (s.erl.seq + 1) % 2 ^ 32

/-- Nothing outside the registers, the functions' event state, the error log and what leaves the device has changed: neither memory, nor
the call sheet, the plan, objects and translation, reels, units, ports, queues of transfers, configuration, trust nor pins. -/
def OnlyReports (s t : Machine.State) : Prop :=
  t.mem = s.mem ∧ t.board = s.board ∧ t.entries = s.entries ∧ t.plan = s.plan ∧ t.objs = s.objs ∧ t.xlat = s.xlat
    ∧ t.reels = s.reels ∧ t.units = s.units ∧ t.portSt = s.portSt ∧ t.xfers = s.xfers ∧ t.cfg = s.cfg ∧ t.trust = s.trust
    ∧ t.pins = s.pins ∧ t.strikes = s.strikes ∧ t.done = s.done ∧ t.shadow = s.shadow

/-- Every register field but those with a key of the list reads as before. -/
def OnlyFields (keys : List Nat) (s t : Machine.State) : Prop :=
  ∀ (fn : Nat) (f : Fld), regKey fn f ∉ keys → rd t fn f = rd s fn f

/-- The state once Slate has read a command of the ring: HEAD is past it, and the command is counted (R38, R385). -/
def afterRead (s : Machine.State) (h : CmdHdr) : Machine.State := takeCmd { s with sent := [] } h.fn h.ring

/-- The identity under which the command concludes (R390): function, ring, place, opcode, TAG and entry. -/
def idOf (s : Machine.State) (h : CmdHdr) (op : Nat) (e : Option Nat) : CmdId :=
  ⟨h.fn, h.ring, rd s h.fn (sqFld PCI_SQ_HEAD h.ring), op, h.tag.toNat, e⟩

/-- The command read concludes with a status in this frame, and nothing else of the completions changes. -/
def Concludes (s t : Machine.State) (h : CmdHdr) (op : Nat) (e : Option Nat) (st : Nat) : Prop :=
  ∃ tag, t.done = s.done ++ [⟨idOf s h op e, st, tag, false⟩]

/-- A counter of the physical function after `n` more events; where there is none, nothing changes. -/
def counted (s : Machine.State) (f : Fld) (n : Nat) : Machine.State := if n = 0 then s else bump0 s f n

/-- The entry has these values beside an UPD_CNT of its own, and every other entry is as it was. -/
def OnlyEntry (s t : Machine.State) (e : Nat) (x : Entry) : Prop :=
  { entryOf t e with updCnt := 0 } = { x with updCnt := 0 } ∧ ∀ d, d ≠ e → entryOf t d = entryOf s d

/-- A packet with this OP arrives on an ACTIVE port, and no revocation of its tenant is in progress (R363, R374). -/
def Arrives (s : Machine.State) (port : Nat) (p : Packet) (op : Nat) : Prop :=
  running s = true ∧ port < 4 ∧ lnkState s port = lnkActive ∧ p.op.toNat = op ∧ revoked s p = false

/-- Neither memory, nor the call sheet, objects and translation, reels, units and the plan has changed. -/
def SameContent (s t : Machine.State) : Prop :=
  t.mem = s.mem ∧ t.board = s.board ∧ t.entries = s.entries ∧ t.objs = s.objs ∧ t.xlat = s.xlat ∧ t.reels = s.reels ∧ t.units = s.units

/-- The bytes of the stacks and of board memory are those after a write of `bs` at a unified address, before which the copies of the
migration engines that it meets commit (R300); nothing of the call sheet, reels and units has changed, and of the objects what those
commits change. -/
def Wrote (s t : Machine.State) (addr : Nat) (bs : Bytes) : Prop :=
  let w := stallWrite s addr bs.length
  t.mem = (uWrite w addr bs).mem ∧ t.board = (uWrite w addr bs).board ∧ t.objs = w.objs ∧ t.entries = s.entries ∧ t.reels = s.reels
    ∧ t.units = s.units

/-- A planned write, which meets no copy (R299): the memories are those after it, and nothing of the call sheet, objects, reels and units has
changed. -/
def Placed (s t : Machine.State) (addr : Nat) (bs : Bytes) : Prop :=
  t.mem = (uWrite s addr bs).mem ∧ t.board = (uWrite s addr bs).board ∧ t.entries = s.entries ∧ t.objs = s.objs ∧ t.reels = s.reels
    ∧ t.units = s.units

/-- The state in which unit `u` takes an instruction: on a privileged shared channel, launched by it (R219). -/
def unitState (s : Machine.State) (u : BankId) : Machine.State := launched { s with sent := [] } (bankOf u)

/-- The unit as it takes an instruction. -/
def unitNow (s : Machine.State) (u : BankId) : UnitSt := unitOf (unitState s u) (bankOf u)

/-- Unit `u` exists and executes this instruction next, does not wait, and none of the faults of R202 holds. -/
def UnitRuns (s : Machine.State) (u : BankId) (c : Code) : Prop :=
  running s = true ∧ unitExists u = true ∧ executes (unitState s u) (bankOf u) c = true
    ∧ waits (unitState s u) (bankOf u) (unitNow s u) c = false
    ∧ faultOf (unitState s u) (bankOf u) (unitNow s u) c = none

/-- The instruction costs its unit `n` clocks and leaves it as `f` says; `k` numbers of free values are passed, and nothing else of
the whole state changes. -/
def UnitGives (s : Machine.State) (u : BankId) (c : Code) (i : Instr) (n k : Nat) (f : UnitSt → UnitSt) : Prop :=
  UnitRuns s u c → Machine.exec i s = .next (setUnit { bump0 (unitState s u) (inst BNK_UNIT_CYC u.stack) n with freeCnt := s.freeCnt + k }
    (bankOf u) (f { unitNow s u with clocks := (unitNow s u).clocks + n }))

/-- The plan computes each position of an entry in one micro-batch, once, and no position lies beyond the range of entries and lengths. -/
def PlanOnce (s : Machine.State) : Prop :=
  (s.plan.micros.flatMap (·.toks)).Nodup ∧ ∀ m ∈ s.plan.micros, ∀ t ∈ m.toks, t.1 < 8192 ∧ t.2 < 2 ^ 22

/-- The arrays bound to the stage's reel and the slot that it names have registers (R135, R136). -/
def ArraysExist (s : Machine.State) (i : StageIn) : Prop := (∀ a ∈ (reelOf s i.reel).arrays, a.1 < 64) ∧ i.slot < 32

/-- Neither the stacks nor board memory has changed. -/
def SameMemory (s t : Machine.State) : Prop := t.mem = s.mem ∧ t.board = s.board

/-- One row of a bank holds `f b` in its byte `b`, and every other byte of the stacks is as before. -/
def RowBecomes (s t : Machine.State) (key row : Nat) (f : Nat → Byte) : Prop :=
  (∀ b < 1024, memRead t.mem (rowAddr s key row 0 + b) = f b)
    ∧ ∀ a, (a < rowAddr s key row 0 ∨ rowAddr s key row 0 + 1024 ≤ a) → memRead t.mem a = memRead s.mem a

/-- Byte `b` of a row of a bank. -/
def rowByte (s : Machine.State) (key row b : Nat) : Byte := memRead s.mem (rowAddr s key row 0 + b)

end Sys2Proof
end

