-- ==== Sys2Proof/Certificates/Slice0/Obligations.lean ====
section
/-! DEFINITION. The statements for the provers. -/

open Sys2Proof Sys2Proof.Machine

/-- O1 (02 The frame; R38). For every command and state, a step of a state with that command at the front of its queue is exec of it on the state
with the queue's rest. -/
def Obligations.StepRunsTheFrontCommand : Prop :=
  ∀ (c : Instr) (cs : List Instr) (s : Machine.State), s.pending = c :: cs → step s = exec c { s with pending := cs }

/-- O2 (R28; R442). The model's choice (log entry 1): on an empty queue a device whose clocks run counts one microsecond: FRM_NOW rises by 1,000 and
stays below 2^27, HUB_UPTIME rises by 1; memory, the call sheet and the objects stay. -/
def Obligations.EmptyQueueIdlesOneMicrosecond : Prop :=
  ∀ s : Machine.State, s.pending = [] → running s = true →
  ∃ t, step s = .next t ∧ rd0 t FRM_NOW = min (rd0 s FRM_NOW + 1000) (2 ^ 27 - 1)
    ∧ rd0 t HUB_UPTIME = (rd0 s HUB_UPTIME + 1) % 2 ^ HUB_UPTIME.width
    ∧ t.pending = [] ∧ t.sent = [] ∧ t.mem = s.mem ∧ t.board = s.board ∧ t.entries = s.entries ∧ t.objs = s.objs
    ∧ t.units = s.units ∧ t.frame = s.frame

/-- O3 (R38; 02 The frame). Whatever command runs, when it answers a next state the queue is as it was. -/
def Obligations.NoCommandTouchesTheQueue : Prop :=
  ∀ (c : Instr) (s t : Machine.State), exec c s = .next t → t.pending = s.pending

/-- O4 (R14; R252). Every command other than a REFRESH answers a next state at every state; a REFRESH does too unless the clocks run, the bank
exists and its stack's temperature lies above the bound of band 7, and there it stops with outOfSpecification: R14 states no behaviour there. -/
def Obligations.OnlyRefreshOutOfSpecificationStops : Prop :=
  (∀ (c : Instr) (s : Machine.State), (∀ u, c ≠ .refresh u) → ∃ t, exec c s = .next t)
  ∧ ∀ (u : BankId) (s : Machine.State),
      if running s = true ∧ u.wf = true ∧ bits (rd0 s (inst STK_REF_TEMP u.stack)) 56 8 < rd0 s (inst STK_REF_STS_TEMP u.stack) then
        exec (.refresh u) s = .fault .outOfSpecification
      else ∃ t, exec (.refresh u) s = .next t

/-- O5 (R14; R11). From every state whose queue holds no REFRESH, any number of steps all answer a next state: no operand, mode or state of any
other command stops the block. -/
def Obligations.RunsWithoutRefreshNeverStop : Prop :=
  ∀ (n : Nat) (s : Machine.State), (∀ u, Instr.refresh u ∉ s.pending) → SafeFor n s

/-- O6 (R479; R503). While PWR_OK or PERST_N is low or after a thermal trip, every command that is no change of PWR_OK or PERST_N and no JTAG
command leaves the whole state as it was, and nothing leaves the device. -/
def Obligations.StoppedClocksKeepEverything : Prop :=
  ∀ (c : Instr) (s : Machine.State), running s = false →
  (c ≠ .pwrOkRise ∧ c ≠ .pwrOkFall ∧ (∀ b, c ≠ .perstRise b) ∧ c ≠ .perstFall ∧ c ≠ .extest ∧ c ≠ .samplePreload ∧ c ≠ .bypass
    ∧ c ≠ .idcode ∧ (∀ o d, c ≠ .debugObserve o d) ∧ (∀ u r d, c ≠ .debugData u r d) ∧ c ≠ .tapReset) →
  exec c s = .next { s with sent := [] }

/-- O7 (R479). While THERM_TRIP_N is low no clock runs, and every step but a fall of PWR_OK leaves it low: for every state with the pin low,
whatever command is at the front of the queue unless it is PWR_OK_FALL, the step answers a next state with the pin low and the clocks stopped. -/
def Obligations.ThermalTripHoldsUntilPowerIsRemoved : Prop :=
  ∀ s : Machine.State, s.pins.thermTripN = false →
  running s = false ∧
  (s.pending.head? ≠ some .pwrOkFall → ∃ t, step s = .next t ∧ t.pins.thermTripN = false ∧ running t = false)

/-- O8 (R283; R341; 09 Stacks, granules and regions). If the stacks' memory and board memory list rising addresses and no byte that reads as an
unlisted one does, they do so after every step that answers a next state. -/
def Obligations.MemoriesKeepTheirCanonicalForm : Prop :=
  ∀ s t : Machine.State, s.mem.wf ∧ s.board.wf → step s = .next t → t.mem.wf ∧ t.board.wf

/-- O9 (R283; R341; R432). At reset both memories are canonical and every byte of them reads as 0, no command waits, and every field of every
function reads the reset value of its field (values the manual does not give are the model's, log entry 2). -/
def Obligations.ResetMemoriesAreCanonical : Prop :=
  State.reset.mem.wf ∧ State.reset.board.wf ∧ (∀ a, memRead State.reset.mem a = 0 ∧ memRead State.reset.board a = 0)
  ∧ State.reset.pending = [] ∧ running State.reset = true ∧ ∀ (fn : Nat) (f : Fld), rd State.reset fn f = f.rst

/-- O10 (R198; R199; R200; R238). For every instruction of the bank units with every operand that its encoding admits, decoding its word gives the
instruction. -/
def Obligations.UnitInstructionsRoundTrip : Prop :=
  ∀ c : Code, c.wf = true → decodeCode (encodeCode c) = some c

/-- O11 (R198; R199; R200; R238). A word decodes to nothing when its opcode is none of the table's, when an LKA names an odd accumulator register,
when TB's mode is 3, and when a ROWOP names operation 7; and whenever a word decodes, its instruction encodes to a word with the same opcode. -/
def Obligations.UndefinedUnitOpcodesAreRefused : Prop :=
  ∀ w : W32,
  (w.extractLsb' 0 8 ∉ [0x00, 0x01, 0x02, 0x03, 0x04, 0x05, 0x06, 0x08, 0x09, 0x0A, 0x0B, 0x0C, 0x10, 0x11, 0x12, 0x13, 0x18, 0x19,
      0x1A, 0x20, 0x21, 0x22, 0x23, 0x28, 0x29, 0x2A, 0x2B, 0x2C, 0x2D, 0x2E, 0x2F, 0x30, 0x31, 0x32, 0x33, 0x34] → decodeCode w = none)
  ∧ (w.extractLsb' 0 8 = 0x21 → w.getLsbD 8 = true → decodeCode w = none)
  ∧ (w.extractLsb' 0 8 = 0x20 → w.extractLsb' 27 2 = 3 → decodeCode w = none)
  ∧ (w.extractLsb' 0 8 = 0x13 → w.extractLsb' 23 3 = 7 → decodeCode w = none)
  ∧ ∀ c, decodeCode w = some c → (encodeCode c).extractLsb' 0 8 = w.extractLsb' 0 8

/-- O12 (R274; R387; 15 Host interface). Every well-formed command that is read from a submission ring names one of 32 functions and one of 4 rings.
-/
def Obligations.RingCommandsNameAFunctionAndARing : Prop :=
  ∀ i : Instr, Laws.RingForm.Statement i

/-- O13 (R24; R23; R34; R43). A TICK that is a skipped tick completes: FRM_NOW is 0, FRM_SKIP_CNT counts it, FRM_TICK of a leader rises by one
modulo 2^48; the phase stays, pending writes stay pending, no doorbell is latched, and memory, the call sheet, the plan and the objects stay. -/
def Obligations.SkippedTickCountsAndKeepsSlateClosed : Prop :=
  ∀ (i : TickIn) (s : Machine.State), running s = true →
  (tickKind { s with sent := [], frame := { s.frame with halted := haltAsked { s with sent := [] } } }).1 = .skipped →
  Completes (.tick i) s fun t =>
    rd0 t FRM_NOW = 0 ∧ rd0 t FRM_SKIP_CNT = min (rd0 s FRM_SKIP_CNT + 1) (2 ^ FRM_SKIP_CNT.width - 1)
      ∧ (leader s = true → rd0 t FRM_TICK = (rd0 s FRM_TICK + 1) % 2 ^ 48 ∧ rd0 t FRM_FRAME = rd0 s FRM_FRAME)
      ∧ t.frame.phase = s.frame.phase ∧ t.frame.next = none ∧ t.shadow = s.shadow
      ∧ (∀ fn, (fnOf t fn).latched = (fnOf s fn).latched) ∧ t.xqLatched = s.xqLatched
      ∧ t.mem = s.mem ∧ t.board = s.board ∧ t.entries = s.entries ∧ t.plan = s.plan ∧ t.objs = s.objs ∧ t.ring = s.ring

/-- O14 (R23; R26; R40; R38). At a leader whose next tick is an opening tick (no frame open at itself or a participant, RUN set, no gate held,
slates allowed) with nothing waiting for that tick, a TICK whose Slate is not closed in the same step begins Slate: FRM_TICK and FRM_FRAME rise by
one modulo 2^48, OPEN_TICK takes the new FRM_TICK, every submission doorbell is latched; the call sheet and both memories stay. -/
def Obligations.OpeningTickOpensAFrame : Prop :=
  ∀ (i : TickIn) (s : Machine.State), running s = true → leader s = true →
  (tickKind { s with sent := [], frame := { s.frame with halted := haltAsked { s with sent := [] } } }).1 = .opening →
  flag s FRM_CTL_GATE = false → s.switchDue = [] → s.shadow = [] → s.cfg.waiting = [] → s.ring = [] → s.trust.creation = none → s.trust.revokes = [] →
  (∀ e ∈ s.entries, e.2.lateDue = false) → s.reels = [] → i.close = false →
  Completes (.tick i) s fun t =>
    t.frame.phase = .slate ∧ t.frame.kind = .frame ∧ t.frame.slateClosed = false ∧ t.frame.wrapDone = false
      ∧ rd0 t FRM_TICK = (rd0 s FRM_TICK + 1) % 2 ^ 48 ∧ rd0 t FRM_FRAME = (rd0 s FRM_FRAME + 1) % 2 ^ 48
      ∧ rd0 t OPEN_TICK = rd0 t FRM_TICK
      ∧ (∀ fn < 32, ∀ q < 4, (fnOf t fn).latched[q]? = some (rd s fn (sqFld PCI_SQ_TAIL q)))
      ∧ t.entries = s.entries ∧ t.mem = s.mem ∧ t.board = s.board

/-- O15 (R40; R41; R36). At a leader, OPEN_CUTOFF fixes the kind of the next tick and changes nothing else: skipped while its own or a participant's
frame is open, while the gate is held or where no Slate may run; an opening tick with RUN set; a maintenance tick with RUN clear. A follower's
cutoff changes nothing. -/
def Obligations.OpenCutoffDecidesTheNextTick : Prop :=
  ∀ s : Machine.State, running s = true →
  exec .openCutoff s = .next
    (if rd0 s FRM_CFG_ROLE = 0 then
      { s with
        sent := []
        frame := { s.frame with
          next := some (if slatesRun s = false ∨ s.frame.phase ≠ .none ∨ s.frame.wrapDone = false
              ∨ (∃ p ∈ s.frame.participants, p.done = false) ∨ rd0 s FRM_CTL_GATE = 1 then TickKind.skipped
            else if rd0 s FRM_CTL_RUN = 1 then TickKind.opening else TickKind.maintenance) } }
     else { s with sent := [] })

/-- O16 (R27; R46; R485; R508). GATE takes the value written; RUN clears when written 0; RUN sets when written 1 outside RECOVERY, with no
DEVICE-class error held, no conversion running and a combination of SRC and ROLE that R27 allows, and the count of failed frames returns to 0 when
RUN changes from 0 to 1; no other field and nothing outside the registers changes. -/
def Obligations.RunAndGateTakeTheirValue : Prop :=
  ∀ (v : Bool) (s : Machine.State), running s = true →
  (Completes (.gate v) s fun t => rd0 t FRM_CTL_GATE = v.toNat ∧ OnlyFields [regKey 0 FRM_CTL_GATE] s t
    ∧ { t with regs := s.regs } = { s with sent := [] })
  ∧ (Completes (.run false) s fun t => rd0 t FRM_CTL_RUN = 0 ∧ OnlyFields [regKey 0 FRM_CTL_RUN] s t
    ∧ { t with regs := s.regs } = { s with sent := [] })
  ∧ (recovery s = false → flag s ERL_HELD_DEVICE = false → (∀ n < 32, flag s (inst RGN_STS_CONVERTING n) = false) → sourceOk s = true →
      Completes (.run true) s fun t => rd0 t FRM_CTL_RUN = 1 ∧ (rd0 s FRM_CTL_RUN = 0 → rd0 t ERL_FAIL_RUN = 0)
        ∧ OnlyFields [regKey 0 FRM_CTL_RUN, regKey 0 ERL_FAIL_RUN] s t ∧ { t with regs := s.regs } = { s with sent := [] })

/-- O17 (R37; R39; R47). In Slate ROLL_BEGIN begins Roll, with the slots of the arrays empty and no stage run. At Wrap due, a Roll that is complete
with nothing of its plan left to do, or a maintenance tick, begins Wrap; any other frame slips, and nothing else changes. A slipped frame's
ROLL_COMPLETE begins Wrap once nothing of the plan is left to do. SLIPPING shows a slip until Wrap begins. -/
def Obligations.RollAndWrapBegin : Prop :=
  ∀ (clk : List Nat) (r : RollReport) (c : Bool) (s : Machine.State), running s = true →
  (s.frame.phase = .slate → Completes (.rollBegin clk) s fun t => t.frame.phase = .roll ∧ t.frame.slateClosed = true
      ∧ t.acts = [] ∧ t.resid = [] ∧ t.routes = [] ∧ t.logits = [] ∧ t.parts = [] ∧ t.streamBuf = [] ∧ t.work = workZero ∧ t.runs = [])
  ∧ (s.frame.phase = .roll → s.frame.dueSeen = false →
      (if s.frame.kind = .maint ∨ (c = true ∧ workLeft s = false) then
        Completes (.wrapDue r c) s fun t => t.frame.phase = .wrap ∧ t.frame.rollDone = true ∧ t.frame.dueSeen = true ∧ rd0 t FRM_STS_SLIPPING = 0
      else exec (.wrapDue r c) s = .next (wr0 { s with
          sent := [], frame := { s.frame with dueSeen := true, report := measured s r, slipped := true } } FRM_STS_SLIPPING 1)))
  ∧ (s.frame.phase = .roll → s.frame.dueSeen = true → workLeft s = false →
      Completes (.rollComplete r) s fun t => t.frame.phase = .wrap ∧ t.frame.rollDone = true ∧ t.frame.report = measured s r
        ∧ rd0 t FRM_STS_SLIPPING = 0)

/-- O18 (R39; R52; R275; R278). While Wrap waits with one token record for a ring that is enabled, has room and whose function can be written,
WRAP_RESUME writes the record at its place, advances TAIL and leaves nothing waiting; while that ring is full it leaves the record waiting, and
changes nothing but that Wrap has waited for the host. With nothing waiting, FRAME_INTERRUPT sends the vector of every function whose frame
interrupt is enabled in mode 0, unmasked and that can be written. WRAP_DONE_REPORT after it closes Wrap; at a follower it also sends the leader its
WRAP_DONE, and the follower takes part in the next frame if RUN is set. -/
def Obligations.WrapWritesInterruptsAndReports : Prop :=
  ∀ s : Machine.State, running s = true → s.frame.phase = .wrap →
  (∀ fn ring lo hi, s.wrapQ = [.token fn ring lo hi] → rd s fn (orFld SMP_OR_EN ring) ≠ 0 → canWrite s fn = true →
      fn < 32 → ring < 64 →
      (ringFull (rd s fn (orFld SMP_OR_HEAD ring)) (rd s fn (orFld SMP_OR_TAIL ring)) (rd s fn (orFld SMP_OR_SIZE ring)) = false →
      Completes .wrapResume s fun t =>
        t.wrapQ = [] ∧ t.frame.hostWaited = false
          ∧ rd t fn (orFld SMP_OR_TAIL ring) = (rd s fn (orFld SMP_OR_TAIL ring) + 1) % 2 ^ 32
          ∧ t.sent = [.host fn
              (rd s fn (orFld SMP_OR_BASE ring) + 16 * (rd s fn (orFld SMP_OR_TAIL ring) % 2 ^ rd s fn (orFld SMP_OR_SIZE ring)))
              (leBytes 8 (lo + ringPhase (rd s fn (orFld SMP_OR_TAIL ring)) (rd s fn (orFld SMP_OR_SIZE ring)) * 2 ^ 18) ++ leBytes 8 hi)
              (tdiRun s fn)]
          ∧ t.mem = s.mem ∧ t.entries = s.entries)
      ∧ (ringFull (rd s fn (orFld SMP_OR_HEAD ring)) (rd s fn (orFld SMP_OR_TAIL ring)) (rd s fn (orFld SMP_OR_SIZE ring)) = true →
        exec .wrapResume s = .next { s with sent := [], frame := { s.frame with hostWaited := true, waited := true } }))
  ∧ (s.wrapQ = [] → s.frame.interrupted = false → flag s FRM_CTL_FRAME_INT_EN = true →
      Completes .frameInterrupt s fun t => t.frame.interrupted = true ∧ t.mem = s.mem ∧ t.entries = s.entries
        ∧ ∀ fn < 32, rd s fn SMP_INT_EN = 1 → rd s fn SMP_INT_MODE = 0 → rd s fn SMP_INT_VECTOR < 64 →
          rd s fn (fldAt MSIX_MASK (rd s fn SMP_INT_VECTOR) 16) ≠ 1 →
            canWrite s fn = true → Msg.msix fn (rd s fn SMP_INT_VECTOR) ∈ t.sent)
  ∧ (s.frame.interrupted = true →
      let closed := { s.frame with phase := .none, wrapDone := true, hostWaited := false, doneLate := cutoffPassed s }
      (leader s = true → exec .wrapDoneReport s = .next { s with sent := [], frame := closed })
      ∧ (leader s = false → Completes .wrapDoneReport s fun t =>
          t.frame = { closed with takesPart := decide (rd0 s FRM_CTL_RUN = 1) } ∧ SameContent s t
            ∧ ∀ out, routePort s (control 8 s.frame.leaderDev (wrapDoneData s)) = some out → lnkState s out = lnkActive →
                ∃ q : Packet, .packet out q ∈ t.sent ∧ q.op = 8 ∧ q.dst = BitVec.ofNat 4 s.frame.leaderDev ∧ q.data = wrapDoneData s))

/-- O19 (R53; R484; 02 The frame). When Roll has not completed FRM_SLIP_LIMIT.TICKS ticks after Wrap due, SLIP_LIMIT fails the frame: a FRAME-class
error is held, Wrap begins, and every entry keeps LEN_COMMIT, its pending token, MASK_STATE, EMITTED and FEED_CUR. -/
def Obligations.FailedFrameCommitsNothing : Prop :=
  ∀ s : Machine.State, running s = true → s.frame.kind = .frame → s.frame.phase = .roll → s.frame.dueSeen = true → s.frame.failed = false →
  rd0 s FRM_SLIP_LIMIT ≤ s.frame.ticksSinceDue →
  Completes .slipLimit s fun t =>
    t.frame.failed = true ∧ t.frame.phase = .wrap ∧ rd0 t ERL_HELD_FRAME = 1
      ∧ ∀ e, (entryOf t e).lenCommit = (entryOf s e).lenCommit ∧ (entryOf t e).pendTok = (entryOf s e).pendTok
          ∧ (entryOf t e).pendValid = (entryOf s e).pendValid ∧ (entryOf t e).maskState = (entryOf s e).maskState
          ∧ (entryOf t e).emitted = (entryOf s e).emitted ∧ (entryOf t e).feedCur = (entryOf s e).feedCur

/-- O20 (R29; R34; R35; R277; R484; R485). After FAIL_LIMIT failed frames in a row FAIL_STORM clears RUN; a ring of the physical function that has
stopped Wrap for TICKS ticks raises RING_STALL; eight missed edges clear LOCKED; three missing beacons clear LOCKED at a follower; a participant
silent for eight ticks is removed; each raises a FRAME-class error, and memory, the call sheet and the plan stay. -/
def Obligations.FrameErrorsAreRaisedAtTheirLimits : Prop :=
  ∀ s : Machine.State, running s = true →
  (rd0 s ERL_FAIL_LIMIT ≤ rd0 s ERL_FAIL_RUN → rd0 s FRM_CTL_RUN = 1 →
      Completes .failStorm s fun t => rd0 t FRM_CTL_RUN = 0 ∧ FrameErrorRaised s t ∧ OnlyReports s t)
  ∧ (s.frame.phase = .wrap → rd0 s FRM_SLIP_LIMIT ≤ s.frame.stallTicks → (∃ r, waitingRing s = some (0, r)) →
      Completes .ringStall s fun t => t.frame.stallTicks = 0 ∧ FrameErrorRaised s t ∧ OnlyReports s t)
  ∧ (rd0 s FRM_CFG_SRC = 1 → 8 ≤ s.frame.fsyncRun →
      Completes .fsyncLost s fun t => rd0 t FRM_STS_LOCKED = 0 ∧ FrameErrorRaised s t ∧ OnlyReports s t)
  ∧ (leader s = false → 3 ≤ s.frame.beaconRun →
      Completes .beaconLost s fun t => rd0 t FRM_STS_LOCKED = 0 ∧ FrameErrorRaised s t ∧ OnlyReports s t)
  ∧ ∀ dev missing, leader s = true → ⟨dev, false, missing⟩ ∈ s.frame.participants → 8 ≤ missing →
      Completes (.peerSilent dev) s fun t =>
        (∀ p ∈ t.frame.participants, p.dev ≠ dev) ∧ FrameErrorRaised s t ∧ OnlyReports s t

/-- O21 (R29; R34). Under FSYNC an edge within 1 µs of the expected time locks and ends a run of misses, an edge outside it is counted as early, a
missing edge is counted as missed; a follower counts a missing beacon; nothing else changes. -/
def Obligations.TickSourceEdgesAndBeacons : Prop :=
  ∀ (off : Int) (s : Machine.State), running s = true →
  (rd0 s FRM_CFG_SRC = 1 → -1000 ≤ off → off ≤ 1000 →
      exec (.fsyncEdge off) s = .next (wr0 { s with sent := [], frame := { s.frame with fsyncRun := 0 } } FRM_STS_LOCKED 1))
  ∧ (rd0 s FRM_CFG_SRC = 1 → off < -1000 ∨ 1000 < off →
      exec (.fsyncEdge off) s = .next (wr0 { s with sent := [] } FRM_FSYNC_EARLY
        (min (rd0 s FRM_FSYNC_EARLY + 1) (2 ^ FRM_FSYNC_EARLY.width - 1))))
  ∧ (rd0 s FRM_CFG_SRC = 1 →
      exec .fsyncMiss s = .next (wr0 { s with sent := [], frame := { s.frame with fsyncRun := s.frame.fsyncRun + 1 } } FRM_FSYNC_MISSED
        (min (rd0 s FRM_FSYNC_MISSED + 1) (2 ^ FRM_FSYNC_MISSED.width - 1))))
  ∧ (leader s = false →
      exec .beaconMiss s = .next { s with sent := [], frame := { s.frame with beaconRun := s.frame.beaconRun + 1, beacon := none } })
  ∧ (leader s = true → exec .beaconMiss s = .next { s with sent := [] })

/-- O22 (R431; R433; R436; R437; R438). On every instance of every page: DISCARD drops the pending writes of the page that its function made and
nothing else; SOFT_RESET, with RUN clear and on a page that accepts it, sets RESETTING and changes no memory, object or entry, and, save on a port
page whose EN changes with it (which trains or stops the port), it clears BLK_ERR and drops the physical function's pending writes, and no state but
registers, pending writes, HUB_TOD's being written and ALERT_N's bookkeeping changes; its end clears RESETTING; HALT_AT_TICK takes 0, and 1 at a
leader in DIAGNOSTIC mode, where it halts the device; a write of BLK_ERR clears the bits that it names, and VALID once none is left. ENABLE of a DMA
page takes its value while RUN is clear. -/
def Obligations.PageHeaderCommandsAct : Prop :=
  ∀ (p : Page) (n : Nat) (s : Machine.State), p ∈ pages → n < p.insts → running s = true →
  let page := p.base + 0x1000 * n
  (∀ fn < 32, fn = 0 ∨ p.window.isSome = true →
      exec (.discard fn page) s = .next { s with sent := [], shadow := s.shadow.filter (fun w => !(w.page = page && w.fn = fn)) })
  ∧ (p.softReset = true → rd0 s FRM_CTL_RUN ≠ 1 →
      let en := inst LNK_CTL_EN n
      Completes (.softReset page) s fun t => rd0 t (hdr BLK_RESETTING page) = 1 ∧ t.mem = s.mem ∧ t.objs = s.objs ∧ t.entries = s.entries
        ∧ ((p.base = 0x30000 → rd0 s en = effective s page en) → rd0 t (hdr BLK_ERR page) = 0
          ∧ t.shadow = s.shadow.filter (fun w => !(w.page = page && w.fn = 0))
          ∧ { t with regs := s.regs, shadow := s.shadow, cfg := s.cfg, ops := s.ops, sent := [] } = { s with sent := [] }))
  ∧ exec (.softResetDone page) s = .next (wr0 { s with sent := [] } (hdr BLK_RESETTING page) 0)
  ∧ (∀ v : Bool, (v = true → diagnostic s = true ∧ leader s = true) →
      Completes (.haltAtTick page v) s fun t => rd0 t (hdr BLK_HALT page) = v.toNat
        ∧ (v = true → rd0 s (hdr BLK_HALT page) = 0 → t.frame.halted = true) ∧ OnlyFields [regKey 0 (hdr BLK_HALT page)] s t
        ∧ t.mem = s.mem ∧ t.entries = s.entries)
  ∧ (∀ mask : W32, rd0 s (hdr BLK_ERR page) < 2 ^ 32 →
      Completes (.blkErrClear 0 page mask) s fun t =>
        rd0 t (hdr BLK_ERR page) = rd0 s (hdr BLK_ERR page) - (rd0 s (hdr BLK_ERR page) &&& mask.toNat)
          ∧ (rd0 t (hdr BLK_ERR page) = 0 → rd0 t (hdr BLK_INFO_VALID page) = 0)
          ∧ OnlyFields [regKey 0 (hdr BLK_ERR page), regKey 0 (hdr BLK_INFO_VALID page)] s t ∧ t.mem = s.mem ∧ t.entries = s.entries)
  ∧ (∀ v : Bool, p.type = 0x20 → rd0 s FRM_CTL_RUN ≠ 1 →
      Completes (.blkCtlEnable page v) s fun t => rd0 t (hdr BLK_ENABLE page) = v.toNat
        ∧ OnlyFields [regKey 0 (hdr BLK_ENABLE page)] s t ∧ { t with regs := s.regs } = { s with sent := [] })

/-- O23 (R55). At a leader, a register write of PERIOD_US from 250 to 100,000 becomes the field's next value with the value in force kept until a
tick, and any other value is dropped: it changes no pending write, sets BLK_ERR, and where BLK_ERR was 0 its capture holds LIMIT. The same of
PERMILLE from 0 to 250. -/
def Obligations.PeriodAndReserveWritesAreChecked : Prop :=
  ∀ s : Machine.State, running s = true →
  (∀ v : BitVec 17, leader s = true →
    (250 ≤ v.toNat ∧ v.toNat ≤ 100000 → Completes (.registerWrite 0 FRM_PERIOD.addr (v.setWidth 64)) s fun t =>
        nextValue t 0 FRM_PERIOD = v.toNat ∧ t.regs = s.regs ∧ { t with shadow := s.shadow } = { s with sent := [] })
    ∧ (v.toNat < 250 ∨ 100000 < v.toNat → v.toNat ≠ nextValue s 0 FRM_PERIOD →
        Completes (.registerWrite 0 FRM_PERIOD.addr (v.setWidth 64)) s fun t =>
          t.shadow = s.shadow ∧ bit (rd0 t (hdr BLK_ERR 0x1000)) 0 = true
            ∧ (rd0 s (hdr BLK_ERR 0x1000) = 0 → rd0 t (hdr BLK_INFO_STATUS 0x1000) = stLimit) ∧ t.mem = s.mem ∧ t.entries = s.entries))
  ∧ ∀ v : BitVec 8,
    (v.toNat ≤ 250 → Completes (.registerWrite 0 FRM_RESERVE.addr (v.setWidth 64)) s fun t =>
        nextValue t 0 FRM_RESERVE = v.toNat ∧ t.regs = s.regs ∧ { t with shadow := s.shadow } = { s with sent := [] })
    ∧ (250 < v.toNat → v.toNat ≠ nextValue s 0 FRM_RESERVE →
        Completes (.registerWrite 0 FRM_RESERVE.addr (v.setWidth 64)) s fun t =>
          t.shadow = s.shadow ∧ bit (rd0 t (hdr BLK_ERR 0x1000)) 0 = true
            ∧ (rd0 s (hdr BLK_ERR 0x1000) = 0 → rd0 t (hdr BLK_INFO_STATUS 0x1000) = stLimit) ∧ t.mem = s.mem ∧ t.entries = s.entries)

/-- O24 (R276; R310; R384; R385; R442). A TAIL at most the ring's size ahead of HEAD and a HEAD that leaves the ring's use within its size take
effect in the function's own copy, FIRST takes an entry that the function may name, HUB_TOD takes its value and counts from then on, RESUME clears
HALTED; no other register field changes, nor anything else. -/
def Obligations.CountersOfRingsTakeTheirWrites : Prop :=
  ∀ s : Machine.State, running s = true →
  (∀ fn < 32, ∀ ring < 4, ∀ tail : W32,
    ringUsed (rd s fn (sqFld PCI_SQ_HEAD ring)) tail.toNat ≤ 2 ^ rd s fn (sqFld PCI_SQ_SIZE ring) →
    Completes (.sqDoorbell fn ring tail) s fun t => rd t fn (sqFld PCI_SQ_TAIL ring) = tail.toNat
      ∧ OnlyFields [regKey fn (sqFld PCI_SQ_TAIL ring)] s t ∧ { t with regs := s.regs } = { s with sent := [] })
  ∧ (∀ fn < 32, ∀ q < 8, ∀ tail : W32,
    ringUsed (rd s fn (xqFld XPD_Q_HEAD q)) tail.toNat ≤ 2 ^ rd s fn (xqFld XPD_Q_SIZE q) →
    exec (.xpdTailWrite fn q tail) s = .next (wr { s with sent := [] } fn (xqFld XPD_Q_TAIL q) tail.toNat))
  ∧ (∀ fn < 32, ∀ r < 64, ∀ head : W32, ringUsed head.toNat (rd s fn (orFld SMP_OR_TAIL r)) ≤ 2 ^ rd s fn (orFld SMP_OR_SIZE r) →
    Completes (.ringHeadWrite fn (.output r) head) s fun t => rd t fn (orFld SMP_OR_HEAD r) = head.toNat
      ∧ OnlyFields [regKey fn (orFld SMP_OR_HEAD r)] s t ∧ { t with regs := s.regs } = { s with sent := [] })
  ∧ (∀ fn < 32, ∀ head : W32, ringUsed head.toNat (rd s fn PCI_EVR_TAIL) ≤ 2 ^ rd s fn PCI_EVR_SIZE →
    Completes (.ringHeadWrite fn .event head) s fun t => rd t fn PCI_EVR_HEAD = head.toNat
      ∧ OnlyFields [regKey fn PCI_EVR_HEAD] s t ∧ { t with regs := s.regs } = { s with sent := [] })
  ∧ (∀ head : W32, ringUsed head.toNat (rd0 s ERL_RING_TAIL) ≤ 2 ^ rd0 s ERL_RING_SIZE →
    Completes (.ringHeadWrite 0 .errorLog head) s fun t => rd0 t ERL_RING_HEAD = head.toNat
      ∧ OnlyFields [regKey 0 ERL_RING_HEAD] s t ∧ { t with regs := s.regs } = { s with sent := [] })
  ∧ (∀ fn < 32, ∀ first : BitVec 13, entryDenied s fn first.toNat = false →
    Completes (.csvFirstWrite fn first) s fun t => rd t fn PCI_CSV_FIRST = first.toNat
      ∧ OnlyFields [regKey fn PCI_CSV_FIRST] s t ∧ { t with regs := s.regs } = { s with sent := [] })
  ∧ (∀ v : W64, exec (.hubTodWrite v) s = .next { wr0 { s with sent := [] } HUB_TOD v.toNat with cfg := { s.cfg with todSet := true } })
  ∧ ∀ fn < 32, ∀ q < 8, exec (.resume fn q) s = .next (wr { s with sent := [] } fn (xqFld XPD_Q_HALTED q) 0)

/-- O25 (R5; R431). A read of CSH_LATE_CNT by the physical function answers the counter's value in its low 32 bits and leaves it at 0; no other
field and nothing else changes. -/
def Obligations.ReadsClearTheirCounters : Prop :=
  ∀ s : Machine.State, running s = true → rd0 s CSH_LATE_CNT < 2 ^ 32 → pendingOf s 0 CSH_LATE_CNT = none →
  Completes (.readToClear 0 CSH_LATE_CNT.addr) s fun t =>
    t.sent = [.readData (leBytes 8 (rd0 s CSH_LATE_CNT))] ∧ rd0 t CSH_LATE_CNT = 0
      ∧ OnlyFields [regKey 0 CSH_LATE_CNT] s t ∧ { t with regs := s.regs, sent := [] } = { s with sent := [] }

/-- O26 (R231; R45; R458). With RUN clear, a boundary of at most 48 that differs from the one in force, and no moved granule held, is in force at
once, CONVERTING is set and every byte of the granules that change region reads 0; the end of the pass clears CONVERTING. GO keeps the image read,
sets BUSY and clears VALID; its end clears BUSY and records the status, VALID and VERSION of a good image. -/
def Obligations.BoundariesStagingAndConversion : Prop :=
  ∀ s : Machine.State, running s = true →
  (∀ k < 32, ∀ ch < 32, ∀ b : BitVec 6, rd0 s FRM_CTL_RUN ≠ 1 → b.toNat ≤ 48 → b.toNat ≠ bound s k ch →
      boundaryHeld s k ch (bound s k ch) b.toNat = false →
      Completes (.rgnBoundWrite k ch b) s fun t =>
        bound t k ch = b.toNat ∧ rd0 t (inst RGN_STS_CONVERTING k) = 1
          ∧ (∀ bk < 32, ∀ g ∈ movedGrans (bound s k ch) b.toNat, ∀ i < Config.granuleBytes,
              memRead t.mem ((bankKey k ch bk * Config.rowsPerBank + g * Config.rowsPerGranule) * Config.rowBytes + i) = 0)
          ∧ OnlyFields [regKey 0 (boundFld k ch), regKey 0 (inst RGN_STS_CONVERTING k)] s t
          ∧ { t with regs := s.regs, mem := s.mem } = { s with sent := [] })
  ∧ (∀ k < 32, exec (.conversionDone k) s = .next (wr0 { s with sent := [] } (inst RGN_STS_CONVERTING k) 0))
  ∧ (∀ img, rd0 s CFG_STAGE_BUSY ≠ 1 →
      exec (.cfgStageGo img) s = .next { wr0 (wr0 { s with sent := [] } CFG_STAGE_VALID 0) CFG_STAGE_BUSY 1 with cfg := { s.cfg with staged := img } })
  ∧ (rd0 s CFG_STAGE_BUSY = 1 →
      Completes .cfgStageDone s fun t => rd0 t CFG_STAGE_BUSY = 0 ∧ rd0 t CFG_STAGE_STATUS = stageStatus s
        ∧ (∀ i, s.cfg.staged = some i → stageStatus s = stOk → rd0 t CFG_STAGE_VALID = 1 ∧ rd0 t CFG_STAGE_VERSION = i.version.toNat)
        ∧ (stageStatus s ≠ stOk → t.cfg.staged = none) ∧ t.mem = s.mem ∧ t.entries = s.entries)

/-- O27 (R406; R491; R492; R493; R502). With the window READY and idle: in the wait of the boot ROM an image of TARGET 0 that verifies is accepted,
closes READY and lets its chain go on; in RECOVERY mode an image of TARGET 1 to 4 that verifies is being written (BUSY), and its end records OK,
stores the boot copy, the base configuration or the REELS file under its number, and clears BUSY; one that does not verify ends with BAD_FIELD. The
reset key returns registers, memories, call sheet, objects and units to reset, and keeps the error log of flash and the ledger. -/
def Obligations.RecoveryWindowAndWarmReset : Prop :=
  ∀ s : Machine.State, running s = true →
  (rd0 s ERL_RCV_READY = 1 → rd0 s ERL_RCV_BUSY ≠ 1 → s.cfg.rcvWriting = false → s.pins.boot = .hostWait →
      (Completes (.runFirmware true) s fun t => t.pins.boot = .hostFw ∧ rd0 t ERL_RCV_READY = 0 ∧ rd0 t ERL_RCV_STATUS = stOk ∧ t.mem = s.mem)
      ∧ Completes (.runFirmware false) s fun t => t.pins.boot = .hostWait ∧ rd0 t ERL_RCV_READY = 1 ∧ rd0 t ERL_RCV_STATUS = stBadField
        ∧ t.mem = s.mem)
  ∧ (rd0 s ERL_RCV_READY = 1 → rd0 s ERL_RCV_BUSY ≠ 1 → s.cfg.rcvWriting = false → s.pins.boot ≠ .hostWait → recovery s = true →
      (∀ c target, (c = .bootCopyA true ∧ target = 1) ∨ (c = .bootCopyB true ∧ target = 2) ∨ ((∃ f : FileIn, f.verified = true ∧ c = .reelsFile f)
        ∧ target = 4) →
        Completes c s fun t => t.cfg.rcvWriting = true ∧ rd0 t ERL_RCV_BUSY = 1 ∧ rd0 t ERL_RCV_TARGET = target ∧ t.mem = s.mem)
      ∧ (∀ i : CfgImage, i.sigOk = true →
          Completes (.configBase (some i)) s fun t => t.cfg.rcvWriting = true ∧ t.cfg.rcvImage = some i ∧ rd0 t ERL_RCV_TARGET = 3 ∧ t.mem = s.mem)
      ∧ Completes (.bootCopyA false) s fun t => t.cfg.rcvWriting = false ∧ rd0 t ERL_RCV_STATUS = stBadField ∧ rd0 t ERL_RCV_BUSY = 0 ∧ t.mem = s.mem)
  ∧ (s.cfg.rcvWriting = true →
      Completes (.recoveryDone true) s fun t => t.cfg.rcvWriting = false ∧ rd0 t ERL_RCV_BUSY = 0 ∧ rd0 t ERL_RCV_STATUS = stOk
        ∧ (rd0 s ERL_RCV_TARGET = 1 → bit t.cfg.copies 0 = true) ∧ (rd0 s ERL_RCV_TARGET = 2 → bit t.cfg.copies 1 = true)
        ∧ (rd0 s ERL_RCV_TARGET = 3 → t.cfg.flashBase = s.cfg.rcvImage)
        ∧ (∀ b, rd0 s ERL_RCV_TARGET = 4 → s.cfg.rcvFile = some b → mapGet t.cfg.files (rd0 s ERL_RCV_FILE) = some b) ∧ t.mem = s.mem)
  ∧ Completes (.erlResetKey 0x5752) s fun t => t.regs = [] ∧ t.mem = [] ∧ t.board = [] ∧ t.entries = [] ∧ t.objs = [] ∧ t.units = []
      ∧ t.frame = frameZero ∧ t.erl.log = s.erl.log ∧ t.ops.ledger = s.ops.ledger ∧ t.flash = s.flash ∧ t.cfg.files = s.cfg.files
        ∧ t.pins.boot = .chain

/-- O28 (R38; R386; R394). Every command of a submission ring that no open Slate reads (no Slate open to commands, or its ring disabled, not latched
or not readable) joins the ring's waiting commands, and nothing else changes. -/
def Obligations.RingCommandsWaitForSlate : Prop :=
  ∀ (c : Instr) (h : CmdHdr) (s : Machine.State), cmdHdrOf c = some h → running s = true →
  (slateOpen s && sqReady s h.fn h.ring) = false → exec c s = .next { s with sent := [], ring := s.ring ++ [c] }

/-- O29 (R11; R380; R388). Whatever ring command of a virtual function without a tenant Slate reads, it concludes with DENIED under its own TAG, and
beside HEAD, the count of commands and that completion nothing changes. -/
def Obligations.UnboundFunctionsAreDenied : Prop :=
  ∀ (c : Instr) (h : CmdHdr) (s : Machine.State), cmdHdrOf c = some h → ReadsRing s h → h.fn ≠ 0 → tenantOf (afterRead s h) h.fn = none →
  Completes c s fun t => { t with done := s.done } = afterRead s h
    ∧ ∃ d, t.done = s.done ++ [d] ∧ d.status = stDenied ∧ d.cmd.fn = h.fn ∧ d.cmd.tag = h.tag.toNat

/-- O30 (R87). A SET_DEADLINE that Slate reads and none of whose checks fails replaces LATE_ACT, DL_NEXT and DL_END, clears LATE_SEEN and recomputes
NEXT_DUE as the lesser of DL_END and LAST_TICK + DL_NEXT, a zero one aside; it completes OK; no other field of the entry, no other entry and nothing
else changes. -/
def Obligations.SetDeadlineReplacesTheDeadline : Prop :=
  ∀ (h : CmdHdr) (entry : W16) (act : BitVec 2) (dlNext : W16) (dlEnd : BitVec 48) (s : Machine.State), ReadsRing s h →
  let r := afterRead s h
  let e := entry.toNat
  act ≠ 3 → refusal (entryChecks r h e [.staged, .feeding, .decoding]) = none →
  Completes (.setDeadline h entry act dlNext dlEnd) s fun t =>
    OnlyEntry s t e { entryOf s e with
        lateAct := act.toNat, dlNext := dlNext.toNat, dlEnd := dlEnd.toNat, lateSeen := false
        nextDue := if dlEnd = 0 ∧ dlNext = 0 then 0 else if dlEnd = 0 then ((entryOf s e).lastTick + dlNext.toNat) % 2 ^ 48
          else if dlNext = 0 ∨ ((entryOf s e).lastTick + dlNext.toNat) % 2 ^ 48 = 0 then dlEnd.toNat
          else min dlEnd.toNat (((entryOf s e).lastTick + dlNext.toNat) % 2 ^ 48) }
      ∧ Concludes s t h 0x07 (some e) stOk ∧ { t with entries := r.entries, done := r.done } = r

/-- O31 (R64). A DRAFT that no check of its entry refuses and one of whose tokens is at or above the vocabulary size concludes with EXTENT; a FEED
that no earlier check refuses and whose length with LEN_COMMIT and a held pending token exceeds 2,097,152 concludes with LIMIT; a FEED or DRAFT of
count 0 that no check refuses completes OK; none of them changes anything else. -/
def Obligations.DraftAndFeedLimits : Prop :=
  ∀ (h : CmdHdr) (entry : W16) (s : Machine.State), ReadsRing s h →
  let r := afterRead s h
  let e := entry.toNat
  (∀ (n : BitVec 4) (toks : List (BitVec 18)), n.toNat ≤ 8 → refusal (entryChecks r h e [.decoding]) = none →
      (∃ t ∈ toks.take n.toNat, (reelOf r (entryOf r e).reel).vocab ≤ t.toNat) →
      Completes (.draft h entry n toks) s fun t => Concludes s t h 0x03 (some e) stExtent ∧ { t with done := r.done } = r)
  ∧ (∀ (ptr : W64) (len : BitVec 22) (go : Bool) (st : W16) (set : Bool),
      (feedChecks r h e len.toNat go st.toNat set).denied = false → (feedChecks r h e len.toNat go st.toNat set).key = false →
      (feedChecks r h e len.toNat go st.toNat set).badState = false → (feedChecks r h e len.toNat go st.toNat set).badField = false →
      2097152 < len.toNat + (entryOf r e).lenCommit + (entryOf r e).pendValid.toNat →
      Completes (.feed h entry ptr len go st set) s fun t => Concludes s t h 0x02 (some e) stLimit ∧ { t with done := r.done } = r)
  ∧ (∀ (ptr : W64) (go : Bool) (st : W16) (set : Bool), refusal (feedChecks r h e 0 go st.toNat set) = none →
      Completes (.feed h entry ptr 0 go st set) s fun t => Concludes s t h 0x02 (some e) stOk ∧ { t with done := r.done } = r)
  ∧ (∀ toks, refusal (entryChecks r h e [.decoding]) = none →
      Completes (.draft h entry 0 toks) s fun t => Concludes s t h 0x03 (some e) stOk ∧ { t with done := r.done } = r)

/-- O32 (R70). A REEL_UNLOAD of the physical function that Slate reads while an entry that is not FREE names the slot concludes with BAD_STATE, and
nothing else changes. -/
def Obligations.ReelUnloadWaitsForItsEntries : Prop :=
  ∀ (h : CmdHdr) (slot : BitVec 2) (s : Machine.State), ReadsRing s h → h.fn = 0 →
  (∃ e ∈ s.entries, e.2.st ≠ .free ∧ e.2.reel = slot.toNat) →
  Completes (.reelUnload h slot) s fun t =>
    Concludes s t h 0x11 none stBadState ∧ { t with done := s.done } = afterRead s h

/-- O33 (R66; R67; R72; R75; R84). A FEED that no check refuses makes its entry FEEDING with the buffer, length and GO that it names, FEED_CUR 0 and
the mask state that SET_STATE sets, and stays open; a DRAFT of at least one token replaces the entry's drafts and concludes OK; SET_PRIO sets PRIO
and completes OK. No other entry, no memory and no object changes. -/
def Obligations.FeedDraftAndPriorityTakeEffect : Prop :=
  ∀ (h : CmdHdr) (entry : W16) (s : Machine.State), ReadsRing s h →
  let r := afterRead s h
  let e := entry.toNat
  (∀ (ptr : W64) (len : BitVec 22) (go : Bool) (st : W16) (set : Bool), len ≠ 0 → refusal (feedChecks r h e len.toNat go st.toNat set) = none →
      Completes (.feed h entry ptr len go st set) s fun t =>
        (entryOf t e).st = .feeding ∧ (entryOf t e).feedLen = len.toNat ∧ (entryOf t e).feedCur = 0 ∧ (entryOf t e).feedPtr = ptr.toNat
          ∧ (entryOf t e).go = go ∧ (entryOf t e).feed = some (idOf s h 0x02 (some e)) ∧ (entryOf t e).drafts = []
          ∧ (entryOf t e).maskState = (if set then st.toNat else (entryOf s e).maskState)
          ∧ (entryOf t e).lenCommit = (entryOf s e).lenCommit ∧ (entryOf t e).pages = (entryOf s e).pages
          ∧ (∀ d, d ≠ e → entryOf t d = entryOf s d) ∧ t.done = s.done ∧ t.mem = s.mem ∧ t.board = s.board ∧ t.objs = s.objs)
  ∧ (∀ (n : BitVec 4) (toks : List (BitVec 18)), 0 < n.toNat → n.toNat ≤ 8 → refusal (entryChecks r h e [.decoding]) = none →
      (∀ t ∈ toks.take n.toNat, t.toNat < (reelOf r (entryOf r e).reel).vocab) →
      Completes (.draft h entry n toks) s fun t =>
        OnlyEntry s t e { entryOf s e with drafts := (toks.take n.toNat).map BitVec.toNat }
          ∧ (∃ d, t.done = s.done ++ [d] ∧ d.cmd = idOf s h 0x03 (some e) ∧ d.status = stOk ∧ d.drafts = true)
          ∧ t.mem = s.mem ∧ t.board = s.board ∧ t.objs = s.objs)
  ∧ (∀ prio : BitVec 3, refusal (entryChecks r h e [.staged, .feeding, .decoding]) = none →
      Completes (.setPrio h entry prio) s fun t =>
        OnlyEntry s t e { entryOf s e with prio := prio.toNat } ∧ Concludes s t h 0x06 (some e) stOk
          ∧ { t with entries := r.entries, done := r.done } = r)

/-- O34 (R66; R68; R89; R183; R184). A RELEASE that Slate reads and no check refuses puts its entry into STRIKING with LEN_TENT back at LEN_COMMIT,
no drafts, no pending edit, no late action and FIN_REASON 0, adds the strike of its pages to the strikes, ends its open FEED with ABORTED, and stays
open. A CANCEL that no check refuses makes a STAGED, FEEDING or DECODING entry FINISHED with reason CANCELLED, without drafts or a late action, ends
its open FEED with ABORTED, notes the entry's end for Wrap and completes OK; at another entry it completes OK and changes nothing else. A PAGE_EDIT
of at least one page that no check refuses writes the active list with ABSENT set for its run into the inactive copy, marks the edit as of this
Slate and concludes DEFERRED; one of no page concludes OK and changes nothing else. A FENCE that no check refuses joins the fences that wait. Beside
that, the command's own HEAD and counts, and the counts of drafts and edits that go, the whole state stays. -/
def Obligations.ReleaseCancelAndPageEditTakeEffect : Prop :=
  ∀ (h : CmdHdr) (entry : W16) (s : Machine.State), ReadsRing s h →
  let r := afterRead s h
  let e := entry.toNat
  let x := entryOf s e
  let aborted := x.feed.toList.map fun c => (⟨c, stAborted, if c.entry = none then 0 else (entryOf s (c.entry.getD 0)).userTag, false⟩ : Done)
  (refusal (entryChecks r h e [.staged, .feeding, .decoding, .finished, .faulted]) = none →
    (Completes (.release h entry) s fun t =>
        OnlyEntry s t e { x with st := .striking, lenTent := x.lenCommit, drafts := [], edit := 0, lateDue := false, finReason := 0, feed := none
                                 rel := some (idOf s h 0x04 (some e)) }
          ∧ t.strikes = s.strikes ++ [entryStrike s e false] ∧ t.done = s.done ++ aborted
          ∧ { t with entries := r.entries, strikes := r.strikes, done := r.done }
              = counted (counted r CSH_DRAFT_REJ x.drafts.length) CSH_EDIT_REPLACED (if x.edit = 0 then 0 else 1))
    ∧ (x.st = .staged ∨ x.st = .feeding ∨ x.st = .decoding → Completes (.cancel h entry) s fun t =>
        OnlyEntry s t e { x with st := .finished, finReason := 6, lenTent := x.lenCommit, drafts := [], lateDue := false, feed := none }
          ∧ t.done = s.done ++ aborted ++ [⟨idOf s h 0x05 (some e), stOk, x.userTag, false⟩]
          ∧ t.ended = s.ended ++ [(e, x.fn, ⟨3, x.faultStatus, x.userTag, e + 6 * 2 ^ 16, 0⟩)]
          ∧ { t with entries := r.entries, done := r.done, ended := r.ended } = counted r CSH_DRAFT_REJ x.drafts.length)
    ∧ (x.st = .finished ∨ x.st = .faulted → Completes (.cancel h entry) s fun t =>
        Concludes s t h 0x05 (some e) stOk ∧ { t with done := r.done } = r))
  ∧ (∀ i n : BitVec 10, i.toNat ≤ 511 → n.toNat ≤ 512 → refusal (entryChecks r h e [.staged, .feeding, .decoding, .finished]) = none →
      (n = 0 → Completes (.pageEdit h entry i n) s fun t => Concludes s t h 0x08 (some e) stOk ∧ { t with done := r.done } = r)
      ∧ (n ≠ 0 → i.toNat + n.toNat ≤ x.pages.length → (pageEnds 0 x.pages).getD (i.toNat + n.toNat - 1) 0 ≤ x.lenCommit →
        Completes (.pageEdit h entry i n) s fun t =>
          OnlyEntry s t e { x with edit := 2 } ∧ Concludes s t h 0x08 (some e) stDeferred
            ∧ { t with entries := r.entries, done := r.done }
                = plWrite (counted r CSH_EDIT_REPLACED (if x.edit = 0 then 0 else 1)) x (1 - x.plSel)
                    ((plRead r x x.plSel x.pages.length).zipIdx.map fun w =>
                      if i.toNat ≤ w.2 ∧ w.2 < i.toNat + n.toNat then setBit w.1 20 true else w.1)))
  ∧ (refusal { denied := unbound r h.fn, key := carried r h.fn none, badField := h.rsv } = none →
      exec (.fence h) s = .next { r with fences := s.fences ++ [idOf s h 0x09 none] })

/-- O35 (R62; R63; R178; R247; R260; R515). An ADMIT that Slate reads, whose image has been read, none of whose reads through the image's pointers
is uncorrectable and none of whose checks fails makes its entry STAGED: every field of its image is in the entry, ADMIT_TICK and LAST_TICK are the
Slate's tick, NEXT_DUE follows, the pages are those of copy 0 of its list, the sampler keeps its copies of the record, the ban list and the stop
set, and every other field reads 0. It completes OK; copy 1 of the list takes copy 0, the ban row of an entry with a mask table is written, no other
entry changes, and nothing else of the state. -/
def Obligations.AdmitStagesAnEntry : Prop :=
  ∀ (h : CmdHdr) (entry : W16) (i : AdmitImage) (ue : List Nat) (s : Machine.State), ReadsRing s h →
  let r := afterRead s h
  let e := entry.toNat
  let tick := slateTick r
  let x : Entry := { entryZero with
    st := .staged, reel := i.reel.toNat, tenant := i.tenant.toNat, prio := i.prio.toNat, lateAct := i.lateAct.toNat, plCap := i.plCap.toNat
    outRing := i.outRing.toNat, plPtr := i.plPtr.toNat, dlNext := i.dlNext.toNat, dlEnd := i.dlEnd.toNat, maskState := i.maskState.toNat
    smpPtr := i.smpPtr.toNat, maskTbl := i.maskTbl.toNat, stopPtr := i.stopPtr.toNat, stopCnt := i.stopCnt.toNat, maxNew := i.maxNew.toNat
    seed := i.seed, userTag := i.userTag.toNat, admitTick := tick, lastTick := tick, fn := h.fn }
  let q := smpRecord r x.smpPtr
  let ws := plRead r x 0 i.plCount.toNat
  readsBad r ue [(x.plPtr, 8 * min i.plCount.toNat (min x.plCap 512)), (x.smpPtr, 64), (x.stopPtr, 4 * x.stopCnt)] = [] →
  readsBad r ue [(q.banPtr, 4 * q.banCnt)] = [] →
  refusal (bothChecks (bothChecks (admitChecks0 r h e) (admitChecks1 r h i)) (admitChecks2 r h i)) = none →
  Completes (.admitEntry h entry (some i) ue) s fun t =>
    OnlyEntry s t e { x with
        pages := ws.map pageOfWord
        smp := ⟨q.itemp, q.topk, q.topp, q.minp, q.accept, idList r q.banPtr q.banCnt, idList r x.stopPtr x.stopCnt⟩
        nextDue := if x.dlEnd = 0 ∧ x.dlNext = 0 then 0 else if x.dlEnd = 0 then (tick + x.dlNext) % 2 ^ 48
          else if x.dlNext = 0 ∨ (tick + x.dlNext) % 2 ^ 48 = 0 then x.dlEnd else min x.dlEnd ((tick + x.dlNext) % 2 ^ 48) }
      ∧ Concludes s t h 0x01 (some e) stOk
      ∧ { t with done := r.done } = writeBan (plWrite { r with entries := t.entries } x 1 ws) e
      ∧ t.objs = s.objs

/-- O36 (R290; R291; R292; R293; R295; R297; R298; R12). An OBJ_MAP whose checks pass maps its object with the descriptor's fields: at home on board
each granule names the lowest free board granules in order, in the stacks a LINEAR or PORTIONED object takes the lowest free bands of its bank set
and a STRIPED one the units of its stripe descriptor; one of SIZE 0 maps nothing. A claim or its removal whose checks pass sets that bit of CLAIMS;
under the default migration table a first claim of a BOARD object that migrates begins its promotion into bands that it takes, the end of its last
claim in PACKAGE its demotion, and otherwise the bit alone changes. Each completes OK, and beside the object, its translation entries and the
completion the whole state stays. An OBJ_UNMAP whose checks pass puts the object into UNMAPPING with a strike that holds all its rows and stays
open, whatever transfers end for it; no entry and no completion changes, and where no transfer, held descriptor or copy names it, its board granules
read 0, no other object and no byte of the stacks changes. -/
def Obligations.ObjectCommandsTakeEffect : Prop :=
  ∀ (h : CmdHdr) (obj : W16) (s : Machine.State), ReadsRing s h →
  let r := afterRead s h
  let n := obj.toNat
  let others := fun t : Machine.State => ∀ m, m ≠ n → objOf t m = objOf s m
  (∀ (d : ObjDesc) (sd : Option StripeDesc), (d.layout = 2 → sd.isSome = true) → refusal (objMapChecks r h n d (descObj d sd (h.fn = 0))) = none →
      let o := descObj d sd (h.fn = 0)
      let g := d.base.toNat / 2 ^ 21
      Completes (.objMap h obj (some d) sd) s fun t =>
        Concludes s t h 0x20 none stOk ∧ { t with objs := r.objs, xlat := r.xlat, done := r.done } = r ∧ others t
          ∧ (∀ k, k < g ∨ g + d.size.toNat ≤ k → xentOf t k = xentOf s k)
          ∧ (d.size = 0 → objOf t n = objOf s n)
          ∧ (d.size ≠ 0 → d.home = true → objOf t n = { o with st := .board }
              ∧ ∃ bg, takeBoard r d.size.toNat = some bg ∧ ∀ k < d.size.toNat, xentOf t (g + k) = ⟨.board, true, false, false, n, 0, bg.getD k 0⟩)
          ∧ (d.size ≠ 0 → d.home = false → d.layout = 2 → objOf t n = { o with st := .package }
              ∧ ∀ k < d.size.toNat, xentOf t (g + k) = ⟨.stack, false, false, false, n, 0, 0⟩)
          ∧ (d.size ≠ 0 → d.home = false → d.layout ≠ 2 → ∃ gs, takeBands r o (bandCount o) = some gs
            ∧ objOf t n = { o with st := .package, bands := gs }
              ∧ ∀ k < d.size.toNat, xentOf t (g + k)
                  = ⟨.stack, false, false, false, n, gs.getD ((if d.layout = 1 then k % (d.size.toNat / 32) else k) / bandBanks o) 0, 0⟩))
  ∧ (∀ (f : BitVec 6) (v : Bool), mapGet s.cfg.mach 1 = none → refusal (placeChecks r h n f.toNat v) = none →
      let o := objOf s n
      let b := placeBit r h.fn f.toNat
      let o' := { o with claims := setBit o.claims b v }
      Completes (if v then .claim h obj f else .unclaim h obj f) s fun t =>
        Concludes s t h 0x21 none stOk ∧ { t with objs := r.objs, done := r.done } = r ∧ others t
          ∧ (if v = true ∧ migrates o = true ∧ o.st = .board ∧ o.claims = 0 then
               ∃ gs, takeBands r o (bandCount o) = some gs ∧ objOf t n = { o' with st := .promoting, pass := 0, bands := gs }
             else if v = false ∧ migrates o = true ∧ o.st = .package ∧ o.claims = 2 ^ b then objOf t n = { o' with st := .demoting, pass := 0 }
             else objOf t n = o'))
  ∧ (refusal (unmapChecks r h n) = none →
      Completes (.objUnmap h obj) s fun t =>
        (objOf t n).st = .unmapping ∧ (objOf t n).unmap = some (idOf s h 0x22 none) ∧ (objOf t n).repairing = [] ∧ t.done = s.done
          ∧ t.entries = s.entries
          ∧ (∃ x ∈ t.strikes, x.owner = .object n ∧ x.revoke = false ∧ ∀ run ∈ objRows (objOf s n), run ∈ x.rows)
          ∧ ((∀ x ∈ s.xfers, xferNames s n x = false) → (∀ i ∈ s.apertureQ.filterMap dmaOf, n ∉ descObjs s (ownPeer s i.desc)) →
              (∀ m ∈ s.migs, m.2.obj ≠ n) →
              others t ∧ t.xfers = s.xfers ∧ t.apertureQ = s.apertureQ ∧ t.xlat = s.xlat ∧ t.mem = s.mem ∧ t.reels = s.reels ∧ t.units = s.units
                ∧ (∀ bg ∈ objBoard s n, ∀ i < 2 ^ 21, memRead t.board (bg * 2 ^ 21 + i) = 0)
                ∧ ∀ a, a / 2 ^ 21 ∉ objBoard s n → memRead t.board a = memRead s.board a))

/-- O37 (R121; R122; R138; R294; R512). A REEL_LOAD whose checks pass leaves its slot LOADING from its address and stays open, changing nothing
else; the end of its work records UNCORRECTED after a failed read, the status of the first check that its image fails, or OK with the stages and
digest of the image; a REEL_UNLOAD whose checks pass leaves its slot UNLOADING and stays open; the end of its zeroing removes every activation of
the slot and records OK. -/
def Obligations.ReelsLoadAndUnload : Prop :=
  ∀ (slot : BitVec 2) (s : Machine.State), running s = true →
  let k := slot.toNat
  (∀ (h : CmdHdr) (addr : W64), ReadsRing s h → refusal (loadChecks (afterRead s h) h k addr.toNat) = none →
      Completes (.reelLoad h slot addr) s fun t =>
        reelOf t k = { reelZero with st := .loading, addr := addr.toNat, cmd := some (idOf s h 0x10 none) }
          ∧ (∀ j, j ≠ k → reelOf t j = reelOf s j) ∧ { t with reels := s.reels } = afterRead s h)
  ∧ (∀ h : CmdHdr, ReadsRing s h → refusal (unloadChecks (afterRead s h) h k) = none →
      Completes (.reelUnload h slot) s fun t =>
        (reelOf t k).st = .unloading ∧ (reelOf t k).cmd = some (idOf s h 0x11 none) ∧ (reelOf t k).claimed = []
          ∧ (∀ j, j ≠ k → reelOf t j = reelOf s j) ∧ t.entries = s.entries)
  ∧ (∀ (dg : BitVec 384) (ue : List Nat) (ok : Bool), (reelOf s k).st = .loading → (reelOf s k).ready = none →
      Completes (.reelLoadComplete slot dg ue ok) s fun t =>
        (reelOf t k).ready = some (if (∃ a ∈ ue, canFail s a = true) then stUncorrected else (imageFailure s k (reelOf s k).addr ok).getD stOk)
          ∧ (reelOf t k).st = .loading
          ∧ ((∀ a ∈ ue, canFail s a = false) → imageFailure s k (reelOf s k).addr ok = none → (readReel s (reelOf s k).addr).plan.stageCnt ≠ 0 →
              (reelOf t k).digest = dg ∧ (reelOf t k).stages = (readReel s (reelOf s k).addr).stages.map (·.1))
          ∧ (∀ j, j ≠ k → reelOf t j = reelOf s j) ∧ t.entries = s.entries)
  ∧ (∀ dg : BitVec 384, (reelOf s k).st = .unloading → (reelOf s k).ready = none →
      Completes (.reelUnloadComplete slot dg) s fun t =>
        (reelOf t k).ready = some stOk ∧ (reelOf t k).digest = dg ∧ (∀ p ∈ t.acts, actSlot p.1 ≠ k) ∧ (∀ p ∈ t.resid, actSlot p.1 ≠ k)
          ∧ (∀ p ∈ t.logits, actSlot p.1 ≠ k) ∧ (∀ j, j ≠ k → reelOf t j = reelOf s j) ∧ t.entries = s.entries)

/-- O38 (R326; R327; R389; R459; R482). A TABLE_LOAD whose checks pass, of an image that encodes a code, waits on its queue, and once every
descriptor below its mark has ended its table is in the slot and it concludes OK; an OVERLAY_APPLY whose checks pass waits for the next opening tick
with a copy of its image; a STATS_SNAPSHOT whose checks pass waits for Wrap. A read that fails, of an enabled ring of any function, disables the
ring, leaves HEAD, counts, drops the ring's commands, and raises an error: FRAME-class for the physical function, TENANT-class for a virtual one.
Beside that nothing changes. -/
def Obligations.TablesOverlaysSnapshotsAndFailedFetches : Prop :=
  ∀ (s : Machine.State), running s = true →
  (∀ (h : CmdHdr) (q : BitVec 3) (slot : BitVec 4) (gen : Byte) (addr : W64) (img : TableImage), ReadsRing s h →
      refusal (tableLoadChecks (afterRead s h) h q.toNat slot.toNat addr.toNat) = none →
      img.bad = false → lensBad img.lens = false → img.lens.length = 256 → (∀ l ∈ img.lens, l ≤ 16) →
      exec (.tableLoad h q slot gen addr (some img)) s = .next { afterRead s h with
        tblLoads := s.tblLoads ++ [⟨idOf s h 0x30 none, q.toNat, xqEngineOf (afterRead s h) h.fn q.toNat / 4, slot.toNat, gen.toNat, img.lens,
          mapGetD s.xqLatched (xqKey h.fn q.toNat) 0⟩] })
  ∧ (∀ (fn q : Nat) (l : TblLoad), (s.tblLoads.find? fun t => t.cmd.fn = fn && t.queue = q) = some l → loadDue s l = true →
      Completes (.tableLoadEffect fn q) s fun t =>
        mapGet t.tblSlots (tblKey l.group l.slot) = some ⟨l.gen, true, l.lens⟩
          ∧ (∀ k, k ≠ tblKey l.group l.slot → mapGet t.tblSlots k = mapGet s.tblSlots k) ∧ t.tblLoads = s.tblLoads.filter (· ≠ l)
          ∧ (∃ tag, t.done = s.done ++ [⟨l.cmd, stOk, tag, false⟩])
          ∧ { t with tblSlots := s.tblSlots, tblLoads := s.tblLoads, done := s.done } = { s with sent := [] })
  ∧ (∀ (h : CmdHdr) (slot : BitVec 3) (src : BitVec 2), ReadsRing s h → refusal (overlayChecks (afterRead s h) h slot.toNat src.toNat) = none →
      exec (.overlayApply h slot src) s = .next { afterRead s h with cfg := { s.cfg with
        waiting := s.cfg.waiting ++ [⟨idOf s h 0x31 none, slot.toNat, overlaySource (afterRead s h) slot.toNat src.toNat⟩] } })
  ∧ (∀ (h : CmdHdr) (n : BitVec 6) (dest : W64), ReadsRing s h → h.fn = 0 → h.rsv = false → dest.toNat % 4096 = 0 → n.toNat ≤ 60 →
      exec (.statsSnapshot h n dest) s = .next { afterRead s h with ops := { s.ops with stats := s.ops.stats ++ [(idOf s h 0x40 none, n.toNat, dest.toNat)] } })
  ∧ ∀ fn < 32, ∀ ring < 4, rd s fn (sqFld PCI_SQ_EN ring) ≠ 0 →
      Completes (.ringFetch fn ring) s fun t =>
        rd t fn (sqFld PCI_SQ_EN ring) = 0 ∧ rd t fn (sqFld PCI_SQ_HEAD ring) = rd s fn (sqFld PCI_SQ_HEAD ring)
          ∧ rd t fn PCI_FETCH_ERR = min (rd s fn PCI_FETCH_ERR + 1) (2 ^ PCI_FETCH_ERR.width - 1)
          ∧ t.ring = s.ring.filter (fun c => !inRing fn ring c) ∧ OnlyReports s t
          ∧ (fn = 0 → FrameErrorRaised s t)
          ∧ (fn ≠ 0 → TenantErrorRaised s t ∧ ∀ k, tenantOf s fn = some k → bit (rd0 t ERL_HELD_TENANT) k = true)

/-- O39 (R12; R410; R416; R417; R418; R419; R420; R423). A mailbox that is not BUSY takes its commands. With the identity established: a
TENANT_CREATE that no check refuses installs the slot's keys at once and waits for the next Slate, BUSY, or, where no tick runs a Slate, binds the
tenant and concludes OK, and one of no entries or no window concludes OK and creates nothing; a TENANT_REMOVE of an ACTIVE slot starts its
revocation, makes the slot REVOKING and stays BUSY; TORUS_EXPORT, TORUS_WRAP and TORUS_INSTALL conclude OK with their blob written to the host (its
bytes are free values, log entry 3), or with the torus key and its epochs installed, and where a length that they name is 0 they conclude OK and do
nothing. LOG_READ writes the log and concludes OK; of a buffer of no bytes it writes nothing. -/
def Obligations.MailboxCommandsConclude : Prop :=
  ∀ (seq : Byte) (s : Machine.State), running s = true → flag s MTP_MBX_BUSY = false →
  let same := fun t : Machine.State => t.entries = s.entries ∧ t.objs = s.objs ∧ t.mem = s.mem ∧ t.board = s.board
  let ended := fun t : Machine.State => rd0 t MTP_MBX_BUSY = 0 ∧ rd0 t MTP_MBX_STATUS = stOk ∧ rd0 t MTP_MBX_SEQ = seq.toNat ∧ same t
  let len := fun i => mbxArg s i % 2 ^ 32
  (flag s MTP_ID_OK = true →
    (let c := creationOf s
     refusal (createChecks s c) = none →
      (c.rangeCount = 0 ∨ c.winSize = 0 → Completes (.tenantCreate seq) s fun t =>
        ended t ∧ slotState t c.tenant = slotState s c.tenant ∧ t.trust = { s.trust with mbxOp := 0 } ∧ t.sent = [])
      ∧ (c.rangeCount ≠ 0 → c.winSize ≠ 0 → slatesRun s = true → Completes (.tenantCreate seq) s fun t =>
        rd0 t MTP_MBX_BUSY = 1 ∧ t.trust.creation = some c ∧ slotState t c.tenant = 1 ∧ mapGetD t.trust.ctr c.tenant 0 = 0
          ∧ tenantOf t c.fn = tenantOf s c.fn ∧ same t)
      ∧ (c.rangeCount ≠ 0 → c.winSize ≠ 0 → slatesRun s = false → Completes (.tenantCreate seq) s fun t =>
        ended t ∧ slotState t c.tenant = 1 ∧ mapGetD t.trust.ctr c.tenant 0 = 0
          ∧ tenantOf t c.fn = some c.tenant ∧ functionOf t c.tenant = c.fn
          ∧ rd0 t (fldAt CSH_RANGE_BASE c.tenant 8) = c.rangeBase ∧ rd0 t (fldAt CSH_RANGE_COUNT c.tenant 8) = c.rangeCount
          ∧ rd0 t (fldAt UMR_WIN_BASE c.tenant 8) = c.winBase ∧ rd0 t (fldAt UMR_WIN_SIZE c.tenant 8) = c.winSize))
    ∧ (let k := bits (mbxArg s 0) 0 5
       slotState s k = 1 → mbxRsv s 0 31 = false → revokeOf s k = none → Completes (.tenantRemove seq) s fun t =>
        rd0 t MTP_MBX_BUSY = 1 ∧ slotState t k = 2
          ∧ (∃ r, revokeOf t k = some r ∧ r.remove = true ∧ r.flr = [] ∧ r.startFrame = rd0 s FRM_FRAME ∧ r.startTick = rd0 s FRM_TICK
              ∧ r.slateSeen = !slatesRun s ∧ r.drained = false ∧ r.waiting = peerDevs s)
          ∧ (slatesRun s = true → t.entries = s.entries
              ∧ ((∀ x ∈ s.xfers, xferTenant s x ≠ some k) → (∀ i ∈ s.apertureQ.filterMap dmaOf, descSlot s i.fn (ownPeer s i.desc) ≠ some k) →
                same t)))
    ∧ (mbxRsv s 1 (2 ^ 32 - 1) = false → ∀ n : Nat,
        (n ≤ len 1 → len 1 ≠ 0 → Completes (.torusExport seq n) s fun t =>
          ended t ∧ (canWrite s 0 = true → ∃ bs : Bytes, bs.length = n ∧ t.sent = [.host 0 (mbxArg s 0) bs (tdiRun s 0)]))
        ∧ (len 1 = 0 → Completes (.torusExport seq n) s fun t => ended t ∧ t.sent = []))
    ∧ (leader s = true → linksDisabled s = false → mbxRsv s 1 (2 ^ 32 - 1) = false → mbxRsv s 3 (2 ^ 32 - 1) = false → len 1 ≤ 98304 → ∀ n : Nat,
        (n ≤ len 3 → len 1 ≠ 0 → len 3 ≠ 0 → Completes (.torusWrap seq true n) s fun t =>
          ended t ∧ (canWrite s 0 = true → ∃ bs : Bytes, bs.length = n ∧ t.sent = [.host 0 (mbxArg s 2) bs (tdiRun s 0)]))
        ∧ (len 3 = 0 → Completes (.torusWrap seq true n) s fun t => ended t ∧ t.sent = [])
        ∧ (len 1 = 0 → (len 3 = 0 ∨ n ≤ len 3) → ∀ v, Completes (.torusWrap seq v n) s fun t => ended t ∧ t.sent = []))
    ∧ ∀ (id : BitVec 128) (epochs : List W32), runSet s = false → mbxRsv s 1 (2 ^ 32 - 1) = false → len 1 ≤ 98304 →
        (len 1 ≠ 0 → Completes (.torusInstall seq true id epochs) s fun t =>
          ended t ∧ rd0 t KEY_TORUS_HELD = 1 ∧ rd0 t KEY_TORUS_ID0 = id.toNat % 2 ^ 64 ∧ rd0 t KEY_TORUS_ID1 = id.toNat / 2 ^ 64
            ∧ mapGetD t.trust.ctr 32 0 = 0
            ∧ ∀ k < 32, k < epochs.length → rd0 t (fldAt KEY_SLOT_EPOCH k 8) = (epochs.getD k 0).toNat)
        ∧ (len 1 = 0 → ∀ v, Completes (.torusInstall seq v id epochs) s fun t =>
          ended t ∧ t.sent = [] ∧ rd0 t KEY_TORUS_HELD = rd0 s KEY_TORUS_HELD ∧ t.trust = { s.trust with mbxOp := 0 }))
  ∧ (mbxRsv s 1 (2 ^ 32 - 1) = false →
      ((logImage s).length ≤ len 1 → len 1 ≠ 0 → Completes (.logRead seq) s fun t =>
        ended t ∧ (canWrite s 0 = true → t.sent = [.host 0 (mbxArg s 0) (logImage s) (tdiRun s 0)]))
      ∧ (len 1 = 0 → Completes (.logRead seq) s fun t => ended t ∧ t.sent = []))

/-- O40 (R374; R423; R424; R425; R426). When the device's own engines and ports hold nothing of a revoked tenant, its revocation is drained and
every sender that is owed an answer has it; when the last condition of its step 6 holds, the revocation is over, EPOCH has risen by one, the slot is
FREE after TENANT_REMOVE, which concludes OK or past the deadline DONE_LATE with the range and the window gone, and ACTIVE again after any other
trigger. No other revocation, no entry, no object and no memory changes. -/
def Obligations.RevocationsDrainAndComplete : Prop :=
  ∀ (k : Nat) (s : Machine.State) (r : Revoke), running s = true → k < 32 → revokeOf s k = some r →
  (Completes (.revokeDrained k) s fun t =>
      revokeOf t k = some { r with drained := true, asked := [] } ∧ (∀ d, d ≠ k → revokeOf t d = revokeOf s d)
        ∧ t.entries = s.entries ∧ t.objs = s.objs ∧ t.mem = s.mem ∧ t.board = s.board)
  ∧ (revokeReady s r = true → functionOf s k < 32 → (∀ f ∈ r.flr, f < 32) → Completes (.revocationComplete k) s fun t =>
      revokeOf t k = none ∧ (∀ d, d ≠ k → revokeOf t d = revokeOf s d)
        ∧ rd0 t (fldAt KEY_SLOT_EPOCH k 8) = (rd0 s (fldAt KEY_SLOT_EPOCH k 8) + 1) % 2 ^ 32
        ∧ slotState t k = (if r.remove then 0 else 1)
        ∧ rd0 t KEY_RVK_CNT = min (rd0 s KEY_RVK_CNT + 1) (2 ^ 32 - 1)
        ∧ (r.remove = true → rd0 t MTP_MBX_BUSY = 0 ∧ rd0 t MTP_MBX_STATUS = (if revokeLate s r then stDoneLate else stOk)
            ∧ rd0 t (fldAt CSH_RANGE_COUNT k 8) = 0 ∧ rd0 t (fldAt UMR_WIN_SIZE k 8) = 0 ∧ tenantOf t (functionOf s k) = none)
        ∧ t.entries = s.entries ∧ t.objs = s.objs ∧ t.mem = s.mem ∧ t.board = s.board)

/-- O41 (R213; R300; R309; R310; R312; R314; R315; R316; R331; R333; R365; R517). A descriptor that its engine may start ends as its checks and
lengths say. One that a check refuses records that status, an empty one OK, and neither moves a byte. One that passes and is not empty: without a
peer and with no memory channel in processor mode on its way, its output lands at its destination, in host memory or in the unified range, its
completion bytes (FIRST_BAD is a free value where nothing failed, log entry 3) are written and HEAD advances, and no entry, reel or other transfer
changes; a COPY whose source units all read moves its source bytes and reports OK; where a memory channel in processor mode holds part of its range
it waits and is counted, HEAD where it was; a COPY with a peer opens one transfer that waits for the answer to its CHECK, HEAD where it was. A
failed read of a descriptor clears EN, leaves HEAD and raises an error. -/
def Obligations.DescriptorsRunToTheirEnd : Prop :=
  ∀ (i : DmaIn) (s : Machine.State), running s = true → dmaStarts s i.fn i.queue = true → xqEngineOf s i.fn i.queue < 16 →
  let e := xqEngineOf s i.fn i.queue
  let d := ownPeer s i.desc
  let r := runOp s i e d
  let n := rd s i.fn (xqFld XPD_Q_HEAD i.queue)
  let at_ := rd s i.fn (xqFld XPD_Q_BASE i.queue) + 64 * (n % 2 ^ rd s i.fn (xqFld XPD_Q_SIZE i.queue))
  let same := fun t : Machine.State => t.mem = s.mem ∧ t.board = s.board ∧ t.objs = s.objs
  let rest := fun t : Machine.State => t.entries = s.entries ∧ t.xfers = s.xfers ∧ t.reels = s.reels ∧ t.apertureQ = s.apertureQ
  let ends := fun (t : Machine.State) (st len : Nat) => rd t i.fn (xqFld XPD_Q_HEAD i.queue) = ringNext n
    ∧ ∃ w, w % 256 = st % 256 ∧ .host i.fn (at_ + 0x30) (leBytes 8 w ++ leBytes 8 len) (tdiRun s i.fn) ∈ t.sent
  (∀ c ∈ [Instr.copy i, .expandFb i, .expandCt i, .compress i],
    (i.desc.op = 1 ∧ c = .copy i ∨ i.desc.op = 2 ∧ c = .expandFb i ∨ i.desc.op = 3 ∧ c = .expandCt i ∨ i.desc.op = 4 ∧ c = .compress i) →
    (∀ st, refusal (descChecks s i.fn i.desc) = some st → Completes c s fun t => ends t st 0 ∧ same t ∧ rest t)
    ∧ (refusal (descChecks s i.fn i.desc) = none → descEmpty d = true → Completes c s fun t => ends t stOk 0 ∧ same t ∧ rest t)
    ∧ (refusal (descChecks s i.fn i.desc) = none → descEmpty d = false → d.srcSpace ≠ 2 → d.dstSpace ≠ 2 →
      (descHeld s d = none → Completes c s fun t => ends t r.status r.out.length ∧ rest t
          ∧ (d.dstSpace = 0 → .host i.fn d.dstAddr.toNat r.out (tdiRun s i.fn) ∈ t.sent ∧ same t)
          ∧ (d.dstSpace ≠ 0 → Wrote s t d.dstAddr.toNat r.out))
      ∧ (i.desc.op = 1 → failedUnits s i d = [] → r.out = sourceBytes s i d ∧ r.status = stOk)
      ∧ ∀ k, descHeld s d = some k → Completes c s fun t => t.apertureQ = s.apertureQ ++ [c]
          ∧ rd0 t (inst BNK_HOLD_CNT (bankStack k)) = min (rd0 s (inst BNK_HOLD_CNT (bankStack k)) + 1) (2 ^ 32 - 1)
          ∧ rd t i.fn (xqFld XPD_Q_HEAD i.queue) = n ∧ t.sent = [] ∧ t.xfers = s.xfers ∧ SameContent s t))
  ∧ (refusal (descChecks s i.fn i.desc) = none → descEmpty d = false → i.desc.op = 1 → d.srcSpace = 2 ∨ d.dstSpace = 2 →
      Completes (.copy i) s fun t =>
        (∃ x, t.xfers = s.xfers ++ [x] ∧ x.engine = e ∧ x.fn = i.fn ∧ x.queue = i.queue ∧ x.desc = d ∧ x.waiting = true ∧ x.pieces = []
            ∧ x.write = decide (d.dstSpace = 2))
          ∧ rd t i.fn (xqFld XPD_Q_HEAD i.queue) = n ∧ same t ∧ t.entries = s.entries ∧ t.apertureQ = s.apertureQ)
  ∧ Completes (.descFetchFail i.fn i.queue) s fun t =>
      rd t i.fn (xqFld XPD_Q_EN i.queue) = 0 ∧ rd t i.fn (xqFld XPD_Q_HEAD i.queue) = n
        ∧ (i.fn = 0 → FrameErrorRaised s t) ∧ (i.fn ≠ 0 → TenantErrorRaised s t) ∧ same t ∧ rest t

/-- O42 (R392; R393; R487). HELD_RECORD_FLUSH writes as many held records, in order, as an open ring has room for, each with its PHASE at its place,
and TAIL rises by their number; the others stay held. For the event ring of any function and for the error log; a ring that is not open takes none.
The end of a hold-off raises the vector if a record was covered, which starts the next hold-off, or marks it pending where it is masked, and nothing
if none was. -/
def Obligations.HeldRecordsAreWrittenWhenThereIsRoom : Prop :=
  ∀ (fn : Nat) (s : Machine.State), running s = true → fn < 32 →
  (let head := rd s fn PCI_EVR_HEAD
   let tail := rd s fn PCI_EVR_TAIL
   let size := rd s fn PCI_EVR_SIZE
   let hold := (fnOf s fn).hold
   let m := min hold.length (2 ^ size - ringUsed head tail)
   (evrOpen s fn = true → head < 2 ^ 32 → tail < 2 ^ 32 → size < 32 → Completes (.heldRecordFlush fn false) s fun t =>
      (fnOf t fn).hold = hold.drop m ∧ rd t fn PCI_EVR_TAIL = (tail + m) % 2 ^ 32 ∧ rd t fn PCI_EVR_HEAD = head ∧ SameContent s t
        ∧ ∀ i e, i < m → hold[i]? = some e → .host fn (rd s fn PCI_EVR_BASE + 32 * ((tail + i) % 2 ^ 32 % 2 ^ size))
            (eventBytes e (ringPhase ((tail + i) % 2 ^ 32) size) (rd0 s FRM_FRAME)) (tdiRun s fn) ∈ t.sent)
   ∧ (evrOpen s fn = false → Completes (.heldRecordFlush fn false) s fun t =>
      (fnOf t fn).hold = hold ∧ t.sent = [] ∧ t.regs = s.regs ∧ SameContent s t))
  ∧ (let head := rd0 s ERL_RING_HEAD
     let tail := rd0 s ERL_RING_TAIL
     let size := rd0 s ERL_RING_SIZE
     let m := min s.erl.hold.length (2 ^ size - ringUsed head tail)
     (erlOpen s = true → head < 2 ^ 32 → tail < 2 ^ 32 → size < 32 → Completes (.heldRecordFlush fn true) s fun t =>
        t.erl = { s.erl with hold := s.erl.hold.drop m } ∧ rd0 t ERL_RING_TAIL = (tail + m) % 2 ^ 32
          ∧ t.sent.length = m ∧ OnlyFields [regKey 0 ERL_RING_TAIL] s t ∧ SameContent s t ∧ t.fns = s.fns
          ∧ ∀ i b, i < m → s.erl.hold[i]? = some b → .host 0 (rd0 s ERL_RING_BASE + 64 * ((tail + i) % 2 ^ 32 % 2 ^ size))
              (leBytes 1 (leNat (b.take 1) + 8 * ringPhase ((tail + i) % 2 ^ 32) size) ++ b.drop 1) (tdiRun s 0) ∈ t.sent)
     ∧ (erlOpen s = false → Completes (.heldRecordFlush fn true) s fun t => t.erl = s.erl ∧ t.sent = [] ∧ t.regs = s.regs ∧ SameContent s t))
  ∧ ((fnOf s fn).holdoff = true →
    ((fnOf s fn).covered = false → exec (.eventHoldoff fn) s = .next (setFn { s with sent := [] } fn { fnOf s fn with holdoff := false }))
    ∧ ((fnOf s fn).covered = true → rd s fn PCI_EVT_EN = 1 → rd s fn (fldAt MSIX_MASK (rd s fn PCI_EVT_VECTOR) 16) ≠ 1 → canWrite s fn = true →
        Completes (.eventHoldoff fn) s fun t =>
          t.sent = [.msix fn (rd s fn PCI_EVT_VECTOR)] ∧ (fnOf t fn).covered = false
            ∧ (fnOf t fn).holdoff = decide (rd s fn PCI_EVT_HOLDOFF_US ≠ 0) ∧ t.regs = s.regs ∧ t.mem = s.mem ∧ t.entries = s.entries)
    ∧ ((fnOf s fn).covered = true → rd s fn PCI_EVT_EN = 1 → rd s fn (fldAt MSIX_MASK (rd s fn PCI_EVT_VECTOR) 16) = 1 →
        Completes (.eventHoldoff fn) s fun t => t.sent = []
          ∧ rd t fn MSIX_PBA = setBit (rd s fn MSIX_PBA) (rd s fn PCI_EVT_VECTOR) true % 2 ^ MSIX_PBA.width
            ∧ OnlyFields [regKey fn MSIX_PBA] s t ∧ SameContent s t))

/-- O43 (R213; R363; R364; R365; R370; R371; R373). A packet that arrives on an ACTIVE port is counted and acknowledged. One for another device goes
on by its route. At its destination, its tag verifying and no memory channel in processor mode holding its range: a WRITE writes its data at its
address; a READ_REQ sends the bytes it asks for back; a READ_RESP lands where its OUT_ADDR names, or in what goes back to the peer, and the transfer
ends, or goes on to the peer's destination, with its last byte; a CHECK is answered with its outcome; a CHECK_RESP lets the transfer start, or ends
it; a REDUCE combines its data with the bytes at its address, element by element, and at DST writes them at OUT_ADDR, at another member sends them
on. Where a memory channel holds the range the packet waits and is counted. A packet whose tag fails counts; on PLANNED it raises a FRAME-class
error, a WRITE of another class writes zeros, and a request, a CHECK or an answer to one does nothing. -/
def Obligations.TransferPacketsActAtTheirDestination : Prop :=
  ∀ (port : Nat) (p : Packet) (s : Machine.State) (c : Instr) (op : Nat), Arrives s port p op →
  (op = 1 ∧ c = .pktWrite port p ∨ op = 2 ∧ c = .pktReadReq port p ∨ op = 3 ∧ c = .pktReadResp port p ∨ op = 4 ∧ c = .pktCheck port p
    ∨ op = 5 ∧ c = .pktCheckResp port p ∨ op = 6 ∧ c = .pktReduce port p) →
  let acked := fun t : Machine.State => (portOf t port).rxSeq = ((portOf s port).rxSeq + flitsOf p) % 4096
    ∧ .ack port (((portOf s port).rxSeq + flitsOf p) % 4096) ∈ t.sent
  let member := bit p.members.toNat (devIndex s)
  let sound := p.redOp ≠ 3 ∧ p.data.length % 4 = 0
  (∀ out, isMine s p = false → (op = 6 → member = false) → routePort s p = some out → lnkState s out = lnkActive →
    Completes c s fun t => acked t ∧ .packet out { p with dl := nextDl s (some port) p.dl out } ∈ t.sent ∧ SameContent s t)
  ∧ (p.tagOk = true → isMine s p = true ∨ (op = 6 ∧ member = true) → (op = 6 → sound) → ∀ k, heldKey s c = some k → Completes c s fun t =>
      acked t ∧ t.apertureQ = s.apertureQ ++ [c] ∧ SameContent s t
        ∧ rd0 t (inst BNK_HOLD_CNT (bankStack k)) = min (rd0 s (inst BNK_HOLD_CNT (bankStack k)) + 1) (2 ^ 32 - 1))
  ∧ (isMine s p = true → p.tagOk = true → heldKey s c = none →
    (op = 1 → Completes c s fun t => acked t ∧ Wrote s t p.addr.toNat p.data)
    ∧ (op = 2 → Completes c s fun t => acked t ∧ SameContent s t
        ∧ ∀ out, routePort s (answer p 3 (uReadN s p.addr.toNat (p.lenM1.toNat + 1))) = some out → lnkState s out = lnkActive →
            ∃ q : Packet, .packet out q ∈ t.sent ∧ q.op = 3 ∧ q.dst = p.src ∧ q.data = uReadN s p.addr.toNat (p.lenM1.toNat + 1))
    ∧ (op = 3 → ∀ x, xferOf s p = some x → x.waiting = false → x.write = false →
        let off := (p.outAddr.toNat + 2 ^ 43 - x.desc.dstAddr.toNat % 2 ^ 43) % 2 ^ 43
        let back := x.desc.dstSpace = 2
        let x' := { x with pieces := x.pieces ++ [(off, p.data.length)], data := if back then placeAt x.data off p.data else x.data }
        let last := x.desc.srcLen.toNat ≤ xferMoved x + p.data.length
        Completes c s fun t => acked t
          ∧ (if x.desc.dstSpace = 0 ∨ back then SameContent s t else Wrote s t (x.desc.dstAddr.toNat + off) p.data)
          ∧ t.xfers = (if last ∧ ¬ back then s.xfers.filter (·.engine ≠ x.engine)
             else s.xfers.map fun y => if y.engine = x.engine then
               (if last then { x' with write := true, waiting := true, pieces := [] } else x') else y))
    ∧ (op = 4 →
        let writes := decide (leNat (slice p.data 8 1) = 1)
        let st := refusal (peerChecks s (packetKey p) p.addr.toNat (leNat (p.data.take 8)) (!writes))
        Completes c s fun t => acked t ∧ SameContent s t
          ∧ (st = none → writes = true → ∃ y ∈ t.inbound, y.src = p.src.toNat ∧ y.xfer = p.xfer.toNat ∧ y.base = p.addr.toNat
              ∧ y.need = leNat (p.data.take 8) ∧ y.got = 0)
          ∧ (st ≠ none ∨ writes = false → t.inbound = s.inbound)
          ∧ ∀ out, routePort s (answer p 5 (leBytes 1 (st.getD stOk))) = some out → lnkState s out = lnkActive →
              ∃ q : Packet, .packet out q ∈ t.sent ∧ q.op = 5 ∧ q.dst = p.src ∧ q.data = leBytes 1 (st.getD stOk))
    ∧ (op = 5 → ∀ x, xferOf s p = some x → (x.waiting = true ∨ x.write = true) → Completes c s fun t => acked t ∧ SameContent s t
        ∧ if x.waiting = true ∧ leNat (p.data.take 1) = stOk then
            t.xfers = s.xfers.map fun y => if y.engine = x.engine then
              (if x.write then { x with waiting := false, pieces := piecesOf x.desc.dstAddr.toNat x.data.length } else { x with waiting := false }) else y
          else t.xfers = s.xfers.filter (·.engine ≠ x.engine))
    ∧ (op = 6 → sound → Completes c s fun t => acked t ∧ Wrote s t p.outAddr.toNat (reduceData s p).1))
  ∧ (op = 6 → p.tagOk = true → sound →
    (let ws := (wordsOf p.data).zip (wordsOf (uReadN s p.addr.toNat p.data.length))
     (p.redOp = 0 → (reduceData s p).1 = ws.flatMap fun w => leBytes 4 (f32Add w.1 w.2).toNat)
      ∧ (p.redOp = 1 → (reduceData s p).1 = ws.flatMap fun w => leBytes 4 (w.1 + w.2).toNat)
      ∧ (p.redOp = 2 → (∀ w ∈ ws, f32Key w.1 ≠ 0 ∧ f32Key w.2 ≠ 0 ∧ f32IsNan w.1 = false ∧ f32IsNan w.2 = false) →
          (reduceData s p).1 = ws.flatMap fun w => leBytes 4 (f32Max w.1 w.2).toNat))
    ∧ (isMine s p = false → member = true → heldKey s c = none → Completes c s fun t => acked t ∧ SameContent s t
        ∧ ∀ out, routePort s p = some out → lnkState s out = lnkActive →
            ∃ q : Packet, .packet out q ∈ t.sent ∧ q.data = (reduceData s p).1 ∧ q.dst = p.dst ∧ q.members = p.members
              ∧ q.encId = BitVec.ofNat 4 (devIndex s)))
  ∧ (p.tagOk = false → isMine s p = true ∨ (op = 6 ∧ member = true) →
    (p.tc = 1 → (op = 3 → heldKey s c = none) → Completes c s fun t => .ack port (((portOf s port).rxSeq + flitsOf p) % 4096) ∈ t.sent
      ∧ rd0 t ERL_HELD_FRAME = 1)
    ∧ (p.tc ≠ 1 →
      let failed := fun t : Machine.State => acked t ∧ rd0 t (inst LNK_AUTH_FAIL port)
        = min (rd0 s (inst LNK_AUTH_FAIL port) + 1) (2 ^ LNK_AUTH_FAIL.width - 1)
      (op = 1 → heldKey s c = none → Completes c s fun t => failed t ∧ Wrote s t p.addr.toNat (List.replicate p.data.length 0))
      ∧ (op = 2 ∨ op = 4 ∨ op = 5 ∨ op = 6 → Completes c s fun t => failed t ∧ SameContent s t ∧ t.xfers = s.xfers ∧ t.inbound = s.inbound)))

/-- O44 (R32; R33; R34; R35; R52; R363; R364; R370; R374; R375; R376; R426). At a follower a beacon with a budget whose tag verifies is the beacon
of the coming tick; one without a budget, or at the leader, changes no frame. A WRAP_DONE, REVOKE or REVOKE_DONE for another device goes on by its
route. At the leader a WRAP_DONE marks its participant done, or makes a device that is none join, or removes one whose RUN is 0, and a participant's
that misses the cutoff is noted. A REVOKE of an ACTIVE slot starts the tenant's revocation and ends what peers were writing for it; of a slot that
is not, it is answered at once; during a revocation that has not drained, the sender is owed an answer, and after it has, it is answered. A
REVOKE_DONE ends the wait for its sender. A reserved packet is discarded and counted. A LINK flit frees the packets that it acknowledges, and a
replay that it asks for sends the others again, the eighth in a row for one flit (under the default training table) failing a lane; a flit whose CRC
fails asks for a replay. -/
def Obligations.ControlPacketsAndFlitsAct : Prop :=
  ∀ (port : Nat) (p : Packet) (s : Machine.State), running s = true → port < 4 → lnkState s port = lnkActive →
  let k := leNat (p.data.take 1) % 32
  let replied := fun t : Machine.State => ∀ out, routePort s (control 10 p.src.toNat (leBytes 8 k)) = some out → lnkState s out = lnkActive →
    ∃ q : Packet, .packet out q ∈ t.sent ∧ q.op = 10 ∧ q.dst = p.src ∧ q.data = leBytes 8 k
  (Arrives s port p 7 → bits p.members.toNat 0 4 ≠ 0 → p.tagOk = true → leader s = false → Completes (.pktBeacon port p) s fun t =>
      t.frame = { s.frame with beaconRun := 0, leaderDev := p.src.toNat, beacon := some ⟨bits (leNat (slice p.data 0 8)) 0 48,
          bits (leNat (slice p.data 8 8)) 0 48, bits (leNat (slice p.data 16 8)) 0 17, bit (leNat (slice p.data 16 8)) 17⟩ }
        ∧ rd0 t FRM_BEACON_PORT = port ∧ rd0 t FRM_BEACON_HOPS = (distance s p.src.toNat - 1) % 2 ^ FRM_BEACON_HOPS.width
        ∧ (rd0 s FRM_CFG_SRC = 2 → rd0 t FRM_STS_LOCKED = 1) ∧ SameContent s t)
  ∧ (Arrives s port p 7 → bits p.members.toNat 0 4 = 0 ∨ leader s = true → Completes (.pktBeacon port p) s fun t => t.frame = s.frame
    ∧ SameContent s t)
  ∧ (∀ c op, (op = 8 ∧ c = .pktWrapDone port p ∨ op = 9 ∧ c = .pktRevoke port p ∨ op = 10
    ∧ c = .pktRevokeDone port p) → Arrives s port p op → isMine s p = false →
      ∀ out, routePort s p = some out → lnkState s out = lnkActive → Completes c s fun t =>
        .packet out { p with dl := nextDl s (some port) p.dl out } ∈ t.sent ∧ t.frame = s.frame ∧ t.trust.revokes = s.trust.revokes ∧ SameContent s t)
  ∧ (Arrives s port p 8 → isMine s p = true → p.tagOk = true → leader s = true →
      let run := bit (leNat (slice p.data 8 8)) 8
      let mine := s.frame.participants.any (·.dev = p.src.toNat)
      Completes (.pktWrapDone port p) s fun t => SameContent s t ∧
        t.frame = { s.frame with
          peerLate := s.frame.peerLate || (mine && cutoffPassed s)
          participants := if mine && run then s.frame.participants.map fun q => if q.dev = p.src.toNat then ⟨p.src.toNat, true, 0⟩ else q
            else s.frame.participants.filter (·.dev ≠ p.src.toNat)
          joining := if mine && run then s.frame.joining else s.frame.joining.filter (· ≠ p.src.toNat) ++ (if run then [p.src.toNat] else []) })
  ∧ (Arrives s port p 9 → isMine s p = true → p.tagOk = true →
      (∀ r, revokeOf s k = some r → Completes (.pktRevoke port p) s fun t => SameContent s t
        ∧ (r.drained = false → revokeOf t k = some { r with asked := r.asked ++ [p.src.toNat] })
        ∧ (r.drained = true → t.trust.revokes = s.trust.revokes ∧ replied t))
      ∧ (revokeOf s k = none → slotState s k ≠ 1 → Completes (.pktRevoke port p) s fun t =>
        t.trust.revokes = s.trust.revokes ∧ SameContent s t ∧ replied t)
      ∧ (revokeOf s k = none → slotState s k = 1 → Completes (.pktRevoke port p) s fun t =>
        (∃ r, revokeOf t k = some r ∧ r.peer = true ∧ r.remove = false ∧ r.flr = [] ∧ r.asked = [p.src.toNat] ∧ r.drained = false
            ∧ r.slateSeen = !slatesRun s)
          ∧ slotState t k = 2 ∧ t.inbound = s.inbound.filter (·.key ≠ k)
          ∧ (slatesRun s = true → t.entries = s.entries ∧ ((∀ x ∈ s.xfers, xferTenant s x ≠ some k) →
              (∀ i ∈ s.apertureQ.filterMap dmaOf, descSlot s i.fn (ownPeer s i.desc) ≠ some k) → SameContent s t))))
  ∧ (Arrives s port p 10 → isMine s p = true → p.tagOk = true →
      (∀ r, revokeOf s k = some r → Completes (.pktRevokeDone port p) s fun t =>
        revokeOf t k = some { r with waiting := r.waiting.filter (· ≠ p.src.toNat) } ∧ SameContent s t)
      ∧ (revokeOf s k = none → Completes (.pktRevokeDone port p) s fun t => t.trust = s.trust ∧ SameContent s t))
  ∧ (p.op = 0 ∨ 11 ≤ p.op.toNat → exec (.reservedPacket port p) s
      = .next (bump0 (takeFlits { s with sent := [] } port p) (inst LNK_DROP port) 1))
  ∧ (∀ (ack : BitVec 12) (credits : List (Nat × Nat)),
      let x := portOf s port
      let left := x.unacked.filter fun u => 2048 ≤ (ack.toNat + 4096 - u.1 - 1) % 4096
      let used := credits.foldl (fun m c => mapSet 0 m c.1 (mapGetD m c.1 0 - c.2)) x.credits
      exec (.linkFlit port ack credits none) s = .next (setPort { s with sent := [] } port { x with unacked := left, credits := used })
      ∧ ∀ worst : Nat,
        let n := if x.asked = ack.toNat then x.askedRun + 1 else 1
        (n ≠ 8 → Completes (.linkFlit port ack credits (some worst)) s fun t =>
          t.sent = .replay port ack.toNat :: left.map (fun u => .packet port u.2) ∧ (portOf t port).unacked = left
            ∧ (portOf t port).askedRun = n % 8 ∧ rd0 t (inst LNK_REPLAY port) = min (rd0 s (inst LNK_REPLAY port) + 1) (2 ^ 32 - 1) ∧ SameContent s t)
        ∧ (n = 8 → mapGet s.cfg.mach 2 = none → Completes (.linkFlit port ack credits (some worst)) s fun t =>
          lnkState t port = 6 ∧ bit (portOf t port).badLanes (worst % 48) = true ∧ SameContent s t))
  ∧ exec (.flitCrcFail port) s = .next { s with sent := [.nak port (portOf s port).rxSeq] }

/-- O45 (R357; R358; R359; R360; R361; R362). By whatever table is in force, an event that the table does not list for the port's state leaves the
whole state, and one that it lists moves the port to the state of its record (a LOCK whose lane sets all fail leaves the port). LNK_CTL.EN takes its
value; fewer than 12 lanes that see the peer are no event; RETRAIN starts over with every lane good, and with RUN set is dropped. Under the default
table: enabling starts DETECT and disabling any state ends DISABLED with no width; 12 lanes or more that see the peer lead to EQ; a timeout repeats
DETECT or leads from ALIGN and CONFIG to RETRAIN, and is counted; converged lanes lead to ALIGN; a lock whose lane set qualifies sets the width and
leads to CONFIG; agreement leads to ACTIVE with RTT, peer and reversal recorded and the waiting packets sent; disagreement fails the port; a failed
lane makes it retrain, and RETRAIN goes on to ALIGN or FAILED. No other port changes, nor memory, entries, objects, reels or units. -/
def Obligations.LinksTrainByTheTable : Prop :=
  ∀ (port : Nat) (s : Machine.State), running s = true → port < 4 →
  let x := portOf s port
  let goes := fun (c : Instr) (n : Nat) (P : Machine.State → Prop) => Completes c s fun t =>
    lnkState t port = n ∧ P t ∧ (∀ q, q ≠ port → portOf t q = portOf s q) ∧ SameContent s t
  (∀ (c : Instr) (ev m : Nat),
      ((∃ l : BitVec 48, c = .peerSeen port l ∧ 12 ≤ popcount 48 l.toNat ∧ ev = 2 ∧ m = 0) ∨ (∃ l : BitVec 48, c = .trainTimeout port l ∧ ev = 3
        ∧ m = l.toNat)
        ∨ (∃ l : BitVec 48, c = .eqDone port l ∧ ev = 4 ∧ m = l.toNat) ∨ (∃ l : BitVec 48, c = .trainLock port l ∧ ev = 5 ∧ m = l.toNat)
        ∨ (∃ a b d, c = .configOk port a b d ∧ ev = 6 ∧ m = 0) ∨ (c = .mismatch port ∧ ev = 7 ∧ m = 0) ∨ (c = .widthOk port ∧ ev = 9 ∧ m = 0)
        ∨ (c = .noWidth port ∧ ev = 10 ∧ m = 0)) →
      (machLookup (trainingTable s) (lnkState s port) ev = none → exec c s = .next { s with sent := [] })
      ∧ ∀ r, machLookup (trainingTable s) (lnkState s port) ev = some r → r.next < 8 →
          (if r.action = 3 ∧ chooseLanes (goodLanes x &&& m) = none then exec c s = .next { s with sent := [] } else goes c r.next fun _ => True))
  ∧ (Completes (.trainEnable port) s fun t => rd0 t (inst LNK_CTL_EN port) = 1 ∧ SameContent s t)
  ∧ (Completes (.trainDisable port) s fun t => rd0 t (inst LNK_CTL_EN port) = 0 ∧ SameContent s t)
  ∧ (∀ lanes : BitVec 48, popcount 48 lanes.toNat < 12 → exec (.peerSeen port lanes) s = .next { s with sent := [] })
  ∧ (flag s (inst LNK_CTL_EN port) = true → runSet s = false →
    goes (.retrain port) 1 fun t => portOf t port = { x with badLanes := 0, converged := 0 })
  ∧ (runSet s = true → Completes (.retrain port) s fun t => bit (rd0 t (hdr BLK_ERR (0x30000 + port * 0x1000))) 0 = true
      ∧ lnkState t port = lnkState s port ∧ t.portSt = s.portSt ∧ SameContent s t)
  ∧ (mapGet s.cfg.mach 2 = none →
  (lnkState s port = 0 → flag s (inst LNK_CTL_EN port) = false → goes (.trainEnable port) 1 fun t => rd0 t (inst LNK_CTL_EN port) = 1)
  ∧ (flag s (inst LNK_CTL_EN port) = true → goes (.trainDisable port) 0 fun t =>
      rd0 t (inst LNK_CTL_EN port) = 0 ∧ rd0 t (inst LNK_STS_WIDTH port) = 0 ∧ rd0 t (inst LNK_LANES port) = 0)
  ∧ (∀ lanes : BitVec 48, lnkState s port = 1 → 12 ≤ popcount 48 lanes.toNat → goes (.peerSeen port lanes) 2 fun t =>
      bit (rd0 t AGE_STS_EQ_PENDING) port = false ∧ portOf t port = x)
  ∧ (∀ un : BitVec 48,
      let more := fun t : Machine.State => rd0 t (inst LNK_RETRAIN_CNT port) = min (rd0 s (inst LNK_RETRAIN_CNT port) + 1) (2 ^ 16 - 1)
      (lnkState s port = 1 → goes (.trainTimeout port un) 1 fun t => more t ∧ portOf t port = x)
      ∧ (lnkState s port = 3 → goes (.trainTimeout port un) 6 fun t => more t ∧ portOf t port = { x with badLanes := x.badLanes ||| un.toNat })
      ∧ (lnkState s port = 4 → goes (.trainTimeout port un) 6 fun t => more t ∧ portOf t port = x))
  ∧ (∀ lanes : BitVec 48, lnkState s port = 2 → goes (.eqDone port lanes) 3 fun t => (portOf t port).converged = lanes.toNat)
  ∧ (∀ mask : BitVec 48, lnkState s port = 3 →
      (∀ w a n, chooseLanes (goodLanes x &&& mask.toNat) = some (w, a, n) → goes (.trainLock port mask) 4 fun t =>
        rd0 t (inst LNK_STS_WIDTH port) = w ∧ rd0 t (inst LNK_LANES port) = (goodLanes x &&& mask.toNat) % 2 ^ 48 ∧ portOf t port = x)
      ∧ (chooseLanes (goodLanes x &&& mask.toNat) = none → exec (.trainLock port mask) s = .next { s with sent := [] }))
  ∧ (∀ (rtt : Nat) (peer : BitVec 4) (rev : Bool), lnkState s port = 4 → goes (.configOk port rtt peer rev) 5 fun t =>
      rd0 t (inst LNK_RTT port) = rtt % 2 ^ 20 ∧ rd0 t (inst LNK_STS_PEER port) = peer.toNat ∧ rd0 t (inst LNK_STS_REVERSED port) = rev.toNat
        ∧ t.sent = x.unacked.map fun u => .packet port u.2)
  ∧ (lnkState s port = 4 → goes (.mismatch port) 7 fun t => portOf t port = { x with unacked := [] })
  ∧ (∀ lane : Nat, lnkState s port = 5 → goes (.laneFail port lane) 6 fun t => portOf t port = { x with badLanes := setBit x.badLanes (lane % 48) true })
  ∧ (lnkState s port = 6 → goes (.widthOk port) 3 (fun t => portOf t port = x)
      ∧ goes (.noWidth port) 7 fun t => portOf t port = { x with unacked := [] }))

/-- O46 (R71; R111; R130; R131; R140; R155; R159; R164; R189; R191; R267; R510). A stage of the plan's Roll whose turn has come and whose weights
and inputs are there gives every token of its micro-batch with an input the output that its kind states, when no error fails the frame: EMBED the
embedding row of its token id, and the entry of a bad id a fault, NORM the normalised residual stream, ROPE the rotated heads, RESID the residual
sum, ACT the gated product, PROJ the rows of its matrix, ROUTE the chosen experts with their weights, EXPERT the chosen experts' outputs, COMBINE
their weighted sum, LMHEAD the logits, ATTN the merged rows of its lanes, each as an ATTN_WALK left it or as it is walked now; a walk leaves the
partial results of its lane; SAMPLE records the decision for each entry whose last position lies here. No entry and no object changes, and memory
only by ATTN's keys and values and by a stage on the bank path. A stage whose weights are not there waits on its arrays with no output; two errors
in staging, or one in a slot, fail the frame; ATTN held by a memory channel in processor mode waits there. The plan computes each position once, and
the arrays and the slot exist. -/
def Obligations.StagesPropagateTheirTokens : Prop :=
  ∀ (i : StageIn) (s : Machine.State), running s = true → PlanOnce s → ArraysExist s i →
  let runs := fun (c : Instr) (kind : Nat) (P : Job → Machine.State → Prop) =>
    (∀ j, jobOf s i kind = some j → i.tileUe < 2 → i.slotUe = false → Completes c s fun t => P j t ∧ t.entries = s.entries ∧ t.objs = s.objs)
  let waitsOrFails := fun (c : Instr) (kind : Nat) =>
    (∀ j, jobNamed s i kind = some j → weightsReady s i j.g = false → Completes c s fun t =>
        (∀ a ∈ jobArrays j, rd0 t (inst ARY_STS_WAITING a.1) = 1) ∧ SameContent s t ∧ t.acts = s.acts ∧ t.resid = s.resid)
      ∧ (∀ j, jobOf s i kind = some j → 2 ≤ i.tileUe ∨ i.slotUe = true → s.frame.failed = false → Completes c s fun t =>
        t.frame.failed = true ∧ t.frame.phase = .wrap)
  let gives := fun (j : Job) (t : Machine.State) (f : Nat × Nat → List F32 → List F32) =>
    ∀ k ∈ j.mb.toks, ∀ x, inputOf s j k = some x → actGet t i.reel i.stage k = some (f k x)
  let dense := fun (j : Job) (x : List F32) => projRows s j ((jobMats j).headD noMat) 0 (codesOf (quantVec s j 0 x))
  (∀ chunks, runs (.embed i chunks) kEmbed fun j t => SameMemory s t
      ∧ (∀ k ∈ j.mb.toks, s.plan.faults.any (·.1 = k.1) = false →
          (∀ u ∈ j.mb.toks, u.1 = k.1 → ∃ v, tokenId s j.reel.vocab chunks u.1 u.2 = .ok v) →
          ∀ v, tokenId s j.reel.vocab chunks k.1 k.2 = .ok v → residGet t i.reel k = some (embedRow s j v))
      ∧ ∀ pre k post st, j.mb.toks = pre ++ k :: post → (∀ u ∈ pre, u.1 = k.1 → ∃ v, tokenId s j.reel.vocab chunks u.1 u.2 = .ok v) →
          tokenId s j.reel.vocab chunks k.1 k.2 = .error st → k.1 ∉ s.plan.tokFaults → (k.1, st) ∈ t.plan.faults)
  ∧ (runs (.norm i) kNorm fun j t => SameMemory s t ∧ ∀ k ∈ j.mb.toks, ∀ x, residGet s i.reel k = some x →
    actGet t i.reel i.stage k = some (normVec j x))
  ∧ (runs (.rope i) kRope fun j t => SameMemory s t ∧ gives j t fun k x => (chunksOf (headDim j.reel) x.length x).flatMap (ropeHead j (headDim j.reel) k.2))
  ∧ (runs (.resid i) kResid fun j t => SameMemory s t ∧ ∀ k ∈ j.mb.toks, ∀ x h, inputOf s j k = some x → residGet s i.reel k = some h →
      residGet t i.reel k = some (List.zipWith f32Add h x))
  ∧ (runs (.actStage i) kAct fun j t => SameMemory s t
      ∧ ∀ k ∈ j.mb.toks, ∀ g u, actGet s i.reel (i.src.headD 0) k = some g → actGet s i.reel (i.src.getD 1 0) k = some u →
          actGet t i.reel i.stage k = some (List.zipWith (fun a b => f32Mul (siluK a) b) g u))
  ∧ (runs (.proj i) kProj fun j t => (bankStage j s = false → SameMemory s t) ∧ gives j t fun _ x => dense j x)
  ∧ (runs (.route i) kRoute fun j t => SameMemory s t ∧ ∀ k ∈ j.mb.toks, ∀ x, inputOf s j k = some x →
      routeOf t i.reel i.stage k = some (routeChoice j.g.topk ((dense j x).take j.g.experts)))
  ∧ (runs (.expert i) kExpert fun j t => (expertOnBank j s = false → SameMemory s t)
      ∧ ∀ k ∈ j.mb.toks, ∀ x r, actGet s i.reel (i.src.headD 0) k = some x → routeOf s i.reel (i.src.getD 1 0) k = some r →
          actGet t i.reel i.stage k = some (r.flatMap fun e => (expertOut s j e.1 (codesOf (quantVec s j 0 x))).1))
  ∧ (runs (.combine i) kCombine fun j t => SameMemory s t
      ∧ ∀ k ∈ j.mb.toks, ∀ y r, actGet s i.reel (i.src.headD 0) k = some y → routeOf s i.reel (i.src.getD 1 0) k = some r →
          actGet t i.reel i.stage k = some (combineVec j.g.outDim y r))
  ∧ (runs (.lmhead i) kLmhead fun j t => SameMemory s t
      ∧ ∀ k ∈ j.mb.toks, ∀ x, (if i.src = [] then residGet s i.reel k else inputOf s j k) = some x →
          mapGet t.logits (actKey i.reel i.stage k.1 k.2) = some (dense j x))
  ∧ (∀ ue j, jobOf s i kAttn = some j → attnHeld s j = none → i.tileUe < 2 → i.slotUe = false →
      (∀ h < (attnOf j).kvHeads, pairOf j h < 2 ^ 16) → splitOf (attnOf j) ≤ 32 → Completes (.attn i ue) s fun t =>
      let w := kvWritten s j
      let bad := fun (e h : Nat) => (ue.filter fun u => u.entry = e && u.pair = pairOf j h).flatMap (·.bad)
      let lane := fun (e h l : Nat) => (mapGet s.parts (partKey i.reel i.stage e (pairOf j h) l)).getD ((walkRows w j e h l (bad e h)).map (·.1))
      t.mem = w.mem ∧ t.board = w.board ∧ t.entries = s.entries ∧ t.objs = s.objs
        ∧ ∀ pre k post, (tokenInputs s j).map (·.1) = pre ++ k :: post → actGet t i.reel i.stage k = some
          ((List.range (attnOf j).kvHeads).flatMap fun h => (List.range (attnOf j).qGroup).flatMap fun g => (mergeRow (headDim j.reel)
            ((List.range (splitOf (attnOf j))).map fun l =>
              (lane k.1 h l).getD ((pre.filter (·.1 = k.1)).length * (attnOf j).qGroup + g) (partZero (headDim j.reel)))).1))
  ∧ (∀ ue j k, jobOf s i kAttn = some j → attnHeld s j = some k → exec (.attn i ue) s = .next (hold { s with sent := [] } k (.attn i ue)))
  ∧ (∀ e pair lane bad corr j, jobOf s i kAttn = some j →
      let h := pair - pairOf j 0
      let c := Instr.attnWalk i e pair lane bad corr
      (∀ k, attnHeld s j = some k → exec c s = .next (hold { s with sent := [] } k c))
      ∧ (attnHeld s j = none → pairOf j 0 ≤ pair → h < (attnOf j).kvHeads → lane < splitOf (attnOf j) → j.mb.toks.any (·.1 = e) = true →
        walked s j e h lane = false → Completes c s fun t =>
          mapGet t.parts (partKey i.reel i.stage e pair lane) = some ((walkRows (kvWritten s j) j e h lane bad).map (·.1))
            ∧ t.mem = (kvWritten s j).mem ∧ t.board = (kvWritten s j).board ∧ t.acts = s.acts ∧ t.entries = s.entries ∧ t.objs = s.objs))
  ∧ (∀ j, jobOf s i kSample = some j → Completes (.sample i) s fun t =>
      SameMemory s t ∧ t.acts = s.acts ∧ t.resid = s.resid ∧ t.entries = s.entries ∧ t.objs = s.objs
        ∧ (∀ r ∈ t.plan.sampled, r ∈ s.plan.sampled ∨ ∃ p ∈ sampledHere s j.mb, r.entry = p.entry)
        ∧ ∀ p ∈ sampledHere s j.mb, s.plan.planned.filter (·.entry = p.entry) = [p] →
          s.plan.sampled.any (·.entry = p.entry) = false → s.plan.faults.any (·.1 = p.entry) = false → (p.chunk = true →
            emits (entryOf s p.entry) p.toks = true) →
          ∀ r, emit s p.entry (logitStage j) (if p.chunk then [] else p.drafts) (if p.chunk then p.base + p.toks - 1 else p.base)
              ⟨p.entry, [], 0, 0, false, (entryOf s p.entry).maskState⟩ = some r → r ∈ t.plan.sampled)
  ∧ (∀ chunks, waitsOrFails (.embed i chunks) kEmbed) ∧ waitsOrFails (.norm i) kNorm ∧ waitsOrFails (.rope i) kRope
  ∧ waitsOrFails (.resid i) kResid ∧ waitsOrFails (.actStage i) kAct ∧ waitsOrFails (.proj i) kProj ∧ waitsOrFails (.route i) kRoute
  ∧ waitsOrFails (.expert i) kExpert ∧ waitsOrFails (.combine i) kCombine ∧ waitsOrFails (.lmhead i) kLmhead

/-- O47 (R107; R112; R208; R212; R213; R214; R215; R219; R222; R223; R303). A prefetch of a STREAMED stage in Roll, at its point or after and into a
released slot, copies its weights into the slot and marks it held; before its point it changes nothing. A switch to processor mode, at its point of
the shot list, sets the mode of every memory channel that it names and the shot list fixed for the stage, and the unit of each placement there runs
the program from clear registers with its window, N and width latched, its code loaded unless it holds this program already; before the point it
changes no mode. A switch to shared mode clears the mode and the row windows of every named channel whose units have all halted, leaves the others
due for their last HALT, and issues the held accesses. The collection that became ready first leaves its beats in the inbox in the order of its
units and lets its units go on; one whose phase is OUT drains to the stage's outputs. With none ready nothing changes, nor by a poll of the ready
registers. Where the points lie is the model's choice (log entry 113). -/
def Obligations.PrefetchModesAndCollectionsAct : Prop :=
  ∀ (k : Nat) (s : Machine.State), running s = true →
  (∀ (reel stage : Nat) (g : Stage), (reelOf s reel).stages[stage]? = some g → g.streamed = true → (reelOf s reel).st = .resident →
      s.frame.phase = .roll → repairingIn s g.wAddr g.wBytes = false →
      (let n := streamIndex (reelOf s reel) stage % max (rd0 s (fldAt UMR_STREAM_SLOTS reel 8)) 1
       streamHeld s reel n = false →
        (prefetchDue s reel stage = true → Completes (.streamPrefetch reel stage) s fun t =>
          mapGet t.streamBuf (streamKey reel stage) = some (n + 1) ∧ Placed s t (streamSlotAddr s reel n) (uReadN s g.wAddr g.wBytes))
        ∧ (prefetchDue s reel stage = false → exec (.streamPrefetch reel stage) s = .next { s with sent := [] })))
  ∧ (k < 32 → ∀ (chans : BitVec 32),
      (∀ run : RunIn,
        let turns := fun c => bit (rd0 s (inst BNK_MODE_PROC k)) c = false ∧ bit chans.toNat c = true ∧ bit (plannedChans s run k) c = true
          ∧ switchPoint s run = true
        Completes (.modeSwitchProc k chans run) s fun t =>
        (∀ c < 30, bit (rd0 t (inst BNK_MODE_PROC k)) c
            = (bit (rd0 s (inst BNK_MODE_PROC k)) c || (switchPoint s run && bit chans.toNat c && bit (plannedChans s run k) c)))
          ∧ (∀ g, (reelOf s run.reel).stages[run.stage]? = some g → g.progAddr ≠ 0 →
              let h := progHead s g.progAddr
              let prog := some ((reelOf s run.reel).digest, g.progAddr)
              ∀ p ∈ placements s h, bankStack p.key = k → p.chan < 30 → turns p.chan → (∀ q ∈ placements s h, q.key = p.key → q = p) →
                let x := unitOf s p.key
                let y := unitOf t p.key
                let n := ((runFor s run.reel run.stage p.expert).map (runTokens s)).getD run.n
                y.running = true ∧ y.dead = false ∧ y.pc = 0 ∧ y.v = [] ∧ y.s = [] ∧ y.n = n ∧ y.phase = 0 ∧ y.limit = h.maxCyc * n
                  ∧ y.wideRun = ((runFor s run.reel run.stage p.expert).map (·.wide)).getD run.wide ∧ y.winBase = p.rowBase ∧ y.winRows = p.rowCount
                  ∧ y.unit = p.unit ∧ y.out0 = p.out0 ∧ y.out1 = p.out1 ∧ y.prog = prog
                  ∧ y.code = (if x.prog = prog then x.code else loadCode s p.key (p.rowBase + h.codeRow) h.words))
          ∧ (∀ key, bankStack key ≠ k → unitOf t key = unitOf s key)
          ∧ (switchPoint s run = false → t.units = s.units)
          ∧ SameMemory s t ∧ t.entries = s.entries ∧ t.objs = s.objs)
      ∧ (let mode := rd0 s (inst BNK_MODE_PROC k)
         ∃ u, exec (.modeSwitchShared k chans) s = .next { serveHeld u with pending := s.pending }
          ∧ (∀ c < 30, bit (rd0 u (inst BNK_MODE_PROC k)) c = (bit mode c && !(bit chans.toNat c && chanIdle s k c))
              ∧ (bit chans.toNat c = true → bit mode c = true → chanIdle s k c = false → bit (mapGetD u.switchDue k 0) c = true)
              ∧ (bit chans.toNat c = true → bit mode c = true → chanIdle s k c = true → ∀ b < 32, (unitOf u (bankKey k c b)).winRows = 0))
          ∧ u.apertureQ = s.apertureQ ∧ SameMemory s u ∧ u.entries = s.entries ∧ u.objs = s.objs ∧ u.pending = s.pending
          ∧ (u.apertureQ = [] → serveHeld u = u)
          ∧ ∀ c, u.apertureQ = [c] → heldKey { u with apertureQ := [] } c = none → serveHeld u = serveOne { u with apertureQ := [] } c))
  ∧ (∀ g, readyGroup s (collOf s k).ready = some g →
      let us := byUnit g
      let x := (us.headD (0, unitZero)).2
      let c := collectShape s x
      let st := (reelOf s x.reel).stages[x.stage]?
      let back := (progHead s ((st.map (·.progAddr)).getD 0)).back.getD x.phase false
      let beats := us.map fun u => unitBeats u.2 s.freeCnt c.1 c.2 back
      Completes (.collection k) s fun t =>
        (collOf t k).inbox = memWrite [] 0 beats.flatten
          ∧ (∀ u ∈ g, (unitOf t u.1).offered = none ∧ u.1 ∉ (collOf t k).ready) ∧ t.entries = s.entries ∧ t.objs = s.objs
          ∧ (back = false → SameMemory s t
              ∧ ∀ q, s.runs.find? (unitInRun x) = some q → t.acts = (drainOut s q ((st.map (·.outDim)).getD 0) (us.zip beats) c.1 c.2).acts))
  ∧ (readyGroup s (collOf s k).ready = none → exec (.collection k) s = .next { s with sent := [] })
  ∧ exec (.readyPoll k) s = .next { s with sent := [] }

/-- O48 (R123; R195; R197; R199; R202; R210; R215; R219; R222; R224). An instruction that a unit executes without a fault costs its clocks and
leaves exactly this: NOP, RWAIT and a WAITIN whose input has been delivered move to the next instruction; HALT clears the unit, and on a privileged
channel sets its ready bit; the HALT of a run's last unit ends the run, or brings the next sub-run of a PROJ stage with its units launched again,
and a switch to shared mode that was due takes place; REP starts its passes or skips them; BNZ branches and decrements or goes on; COLLECT offers
its beats and holds the unit, and on a privileged channel goes on; SETW, SMOV, SADD, SADDI, SMUL and SPARAM write W or their register (an undefined
CODE_W or parameter number: some value, log entry 3). Nothing else of the state changes. A WAITIN whose phase has not come, or whose input is not
there, waits. A unit that meets a fault halts, and the frame fails. -/
def Obligations.UnitControlAndScalarInstructions : Prop :=
  ∀ (s : Machine.State) (u : BankId),
  UnitGives s u .nop (.nop u) 1 0 nextPc
  ∧ (∀ k, UnitGives s u (.rwait k) (.rwait u k) 1 0 nextPc)
  ∧ (∀ p, UnitGives s u (.waitin p) (.waitin u p) 1 0 nextPc
      ∧ (running s = true → unitExists u = true →
          (unitNow s u).phase < p.toNat ∨ (p = 0 ∧ u.chan < 30 ∧ s.runs.any (unitInRun (unitNow s u)) = false) →
          exec (.waitin u p) s = .next (unitState s u)))
  ∧ (let x := unitNow s u
     let key := bankOf u
     let others := fun r => s.units.any fun v => v.1 ≠ key && v.2.running && bankChan v.1 < 30 && unitInRun v.2 r
     u.chan < 30 → UnitRuns s u .halt →
      (bit (mapGetD s.switchDue u.stack 0) u.chan = false →
        (s.runs.find? (unitInRun x) = none → UnitGives s u .halt (.halt u) 32 0 clearUnit)
        ∧ ∀ r, s.runs.find? (unitInRun x) = some r →
          (others r = true → UnitGives s u .halt (.halt u) 32 0 clearUnit)
          ∧ (others r = false → s.frame.phase = .roll →
              (r.left = [] ∨ runIsExpert s r = true → Completes (.halt u) s fun t => r ∉ t.runs ∧ t.units = mapSet unitZero s.units key
                  (clearUnit x) ∧ SameMemory s t ∧ t.entries = s.entries ∧ t.objs = s.objs)
              ∧ ∀ q rest, r.left = q :: rest → runIsExpert s r = false → Completes (.halt u) s fun t =>
                  { r with first := r.first + r.count, count := q.length, left := rest } ∈ t.runs
                    ∧ (∀ p ∈ runBanks s r.reel r.stage r.expert, chanHeld s p.key = true → (unitOf t p.key).running = true ∧ (unitOf t p.key).pc = 0)
                    ∧ t.entries = s.entries ∧ t.objs = s.objs))
      ∧ (bit (mapGetD s.switchDue u.stack 0) u.chan = true → s.runs.find? (unitInRun x) = none → s.apertureQ = [] →
        (∀ b < 32, bankKey u.stack u.chan b ≠ key → (unitOf s (bankKey u.stack u.chan b)).running = false) →
        Completes (.halt u) s fun t => bit (rd0 t (inst BNK_MODE_PROC u.stack)) u.chan = false ∧ (unitOf t key).winRows = 0
          ∧ (unitOf t key).running = false ∧ SameMemory s t ∧ t.entries = s.entries ∧ t.objs = s.objs))
  ∧ (30 ≤ u.chan → UnitRuns s u .halt → Completes (.halt u) s fun t =>
      (unitOf t (bankOf u)).running = false ∧ (unitOf t (bankOf u)).v = [] ∧ (unitOf t (bankOf u)).s = []
        ∧ bit (rd0 t (inst (if u.chan = 30 then BNK_READY_CH30 else BNK_READY_CH31) u.stack)) u.bank = true ∧ t.mem = s.mem)
  ∧ (∀ a imm, UnitGives s u (.rep a imm) (.rep u a imm) 1 0 fun x =>
      if sGet x a = 0 then { x with pc := (x.pc + 1 + (imm.toNat + 1)) % 4096 }
      else { x with pc := (x.pc + 1) % 4096, rep := some ((x.pc + 1) % 4096, imm.toNat + 1, (sGet x a).toNat) })
  ∧ (∀ a imm, (sGet (unitNow s u) a = 0 → UnitGives s u (.bnz a imm) (.bnz u a imm) 1 0 nextPc)
      ∧ (sGet (unitNow s u) a ≠ 0 → UnitGives s u (.bnz a imm) (.bnz u a imm) 3 0 fun x =>
          { sPut x a (sGet x a - 1) with pc := (((x.pc : Int) + imm.toInt) % 4096).toNat }))
  ∧ (∀ a k, (30 ≤ u.chan → UnitGives s u (.collect a k) (.collect u a k) 1 0 nextPc)
      ∧ (u.chan < 30 → UnitRuns s u (.collect a k) → Completes (.collect u a k) s fun t =>
          (unitOf t (bankOf u)).offered = some (1024 * k.toNat + (sGet (unitNow s u) a).toNat) ∧ (unitOf t (bankOf u)).pc = (unitNow s u).pc
            ∧ (collOf t u.stack).ready = (collOf s u.stack).ready ++ [bankOf u] ∧ t.mem = s.mem))
  ∧ (∀ cw : BitVec 3, cw.toNat < 6 → UnitGives s u (.setw cw) (.setw u cw) 1 1 fun x =>
      nextPc { x with w := if cw = 5 then 8 else cw.toNat + 2 })
  ∧ (∀ cw : BitVec 3, 6 ≤ cw.toNat → ∃ w, 2 ≤ w ∧ w ≤ 8 ∧ UnitGives s u (.setw cw) (.setw u cw) 1 1 fun x => nextPc { x with w := w })
  ∧ (∀ d imm, UnitGives s u (.smov d imm) (.smov u d imm) 1 0 fun x => nextPc (sPut x d (imm.signExtend 32)))
  ∧ (∀ d a b, UnitGives s u (.sadd d a b) (.sadd u d a b) 1 0 fun x => nextPc (sPut x d (sGet x a + sGet x b)))
  ∧ (∀ d a imm, UnitGives s u (.saddi d a imm) (.saddi u d a imm) 1 0 fun x => nextPc (sPut x d (sGet x a + imm.signExtend 32)))
  ∧ (∀ d a b, UnitGives s u (.smul d a b) (.smul u d a b) 2 0 fun x => nextPc (sPut x d (sGet x a * sGet x b)))
  ∧ (∀ d (imm : BitVec 9), imm.toNat < 4 → UnitGives s u (.sparam d imm) (.sparam u d imm) 1 1 fun x =>
      nextPc (sPut x d (BitVec.ofNat 32 ([x.n, x.wideRun.toNat, x.unit, x.phase].getD imm.toNat 0))))
  ∧ (∀ d (imm : BitVec 9), 4 ≤ imm.toNat → ∃ v, UnitGives s u (.sparam d imm) (.sparam u d imm) 1 1 fun x => nextPc (sPut x d v))
  ∧ ∀ f, running s = true → unitExists u = true → executes (unitState s u) (bankOf u) .nop = true →
      faultOf (unitState s u) (bankOf u) (unitNow s u) .nop = some f → Completes (.nop u) s fun t =>
        (unitOf t (bankOf u)).running = false ∧ (unitOf t (bankOf u)).v = []
          ∧ (s.frame.kind = .frame → s.frame.phase = .roll → t.frame.failed = true)

/-- O49 (R144; R196; R199; R200; R202; R213; R240; R241). An instruction that a unit executes without a fault does exactly this: RLD fills its
buffer with the row of its window, RST writes the row from its buffer and no other byte of the stacks, VLD and VLDX fill a register, VST writes 32
bytes of a buffer, each adding to its address when its increment bit is set; TB writes 2^W entries of the table and no other (some value for one
under the undefined mode 3, or whose codebook register lies beyond V31: log entry 3); LKA adds the 16 entries that the codes of its column name to
its pair, or sets the pair to them (of a pair that begins at an odd register, some values: log entry 3). ZERO by the hub on a row of a channel that
is not in processor mode clears that row and no other byte; on one that is, it waits and is counted; a row that does not exist it leaves. -/
def Obligations.UnitMemoryAndTableInstructions : Prop :=
  ∀ (s : Machine.State) (u : BankId),
  let key := bankOf u
  let x := unitNow s u
  let stepped := fun (y : UnitSt) (a : BitVec 4) (inc : Bool) (n : W32) => if inc then sPut y a (sGet y a + n) else y
  (∀ a k st row, UnitRuns s u (.rld a k (BitVec.ofBool st)) → windowRow (unitState s u) key x st (sGet x a).toNat = some row →
      Completes (.rld u a k st) s fun t => t.mem = s.mem
        ∧ unitOf t key = nextPc (rbWrite { x with clocks := x.clocks + 1 } k 0 (rowRead s key row)))
  ∧ (∀ a k st row, UnitRuns s u (.rst a k (BitVec.ofBool st)) → windowRow (unitState s u) key x st (sGet x a).toNat = some row →
      Completes (.rst u a k st) s fun t => RowBecomes s t key row (fun b => (rbRead x k b 1).headD 0)
        ∧ unitOf t key = nextPc { x with clocks := x.clocks + 1 })
  ∧ (∀ d a k inc, UnitGives s u (.vld d a k (BitVec.ofBool inc)) (.vld u d a k inc) 1 0 fun x => nextPc (stepped (vPut x d.toNat
        ((List.range 16).map fun i => BitVec.ofNat 16 (leNat (rbRead x k ((sGet x a).toNat + 2 * i) 2)))) a inc 32))
  ∧ (∀ d a k inc, UnitGives s u (.vst d a k (BitVec.ofBool inc)) (.vst u d a k inc) 1 0 fun x => nextPc (stepped (rbWrite x k (sGet x a).toNat
        ((vGet x d.toNat).flatMap fun l => leBytes 2 l.toNat)) a inc 32))
  ∧ (∀ d a k inc, UnitGives s u (.vldx d a k (BitVec.ofBool inc)) (.vldx u d a k inc) 1 0 fun x => nextPc (stepped (vPut x d.toNat
        ((rbRead x k (sGet x a).toNat 16).map fun b => b.signExtend 16)) a inc 16))
  ∧ (∀ d a b lane mode, UnitRuns s u (.tb d a b lane mode) →
      let q := (vGet x a.toNat).getD lane.toNat 0
      let qq : W16 := if mode = 0 then (q.setWidth 8).signExtend 16 else if mode = 1 then q.sshiftRight 8 else q &&& 0xFF
      Completes (.tb u d a b lane mode) s fun t =>
        let y := unitOf t key
        (∀ k < 2 ^ x.w, mode.toNat < 3 → d.toNat + k / 16 < 32 → lutGet y ((sGet x b).toNat + k) = (vGet x (d.toNat + k / 16)).getD (k % 16) 0 * qq)
          ∧ (∀ j, (j < (sGet x b).toNat ∨ (sGet x b).toNat + 2 ^ x.w ≤ j) → lutGet y j = lutGet x j)
          ∧ y.v = x.v ∧ y.s = x.s ∧ y.rb = x.rb ∧ y.clocks = x.clocks + ceilDiv (2 ^ x.w) 16 ∧ y.pc = (nextPc x).pc ∧ t.mem = s.mem)
  ∧ (∀ d a b k inc set, UnitRuns s u (.lka d a b k (BitVec.ofBool inc) (BitVec.ofBool set)) → Completes (.lka u d a b k inc set) s fun t =>
        let y := unitOf t key
        (d.getLsbD 0 = false → lanes32 (vGet y d.toNat) ++ lanes32 (vGet y (d.toNat + 1)) = ((List.range 16).map fun r =>
            (if set then 0 else (lanes32 (vGet x d.toNat) ++ lanes32 (vGet x (d.toNat + 1))).getD r 0)
              + (lutGet x ((sGet x b).toNat + unitCode x k r (sGet x a).toNat)).signExtend 32))
          ∧ (∀ i, i ≠ d.toNat → i ≠ d.toNat + 1 → vGet y i = vGet x i) ∧ sGet y a = (if inc then sGet x a + 1 else sGet x a)
          ∧ y.lut = x.lut ∧ y.rb = x.rb ∧ y.pc = (nextPc x).pc ∧ t.mem = s.mem)
  ∧ (∀ d row, UnitRuns s u (.rowop .zero d 0 0) → windowRow (unitState s u) key x false (sGet x d).toNat = some row →
      Completes (.zero (.unit u d)) s fun t => RowBecomes s t key row (fun _ => 0) ∧ unitOf t key = nextPc { x with clocks := x.clocks + 1 })
  ∧ (∀ row < 98304, running s = true → unitExists u = true →
      (chanHeld s key = false → Completes (.zero (.hub u row)) s fun t =>
        RowBecomes s t key row (fun _ => 0) ∧ t.units = s.units ∧ t.entries = s.entries ∧ t.objs = s.objs)
      ∧ (chanHeld s key = true → exec (.zero (.hub u row)) s = .next (hold { s with sent := [] } key (.zero (.hub u row)))))
  ∧ ∀ row, 98304 ≤ row ∨ unitExists u = false → exec (.zero (.hub u row)) s = .next { s with sent := [] }

/-- O50 (R141; R142; R151; R155; R159; R199; R201). A vector instruction that a unit executes without a fault writes its destination register, lane
by lane, and nothing else of the state: sums, the 256-fold sum, conversions, FP32 sum, difference, product and fused product, a broadcast lane, the
pairwise reduction in lane 0, the four functions per lane. FQ16 writes 8 codes into the chosen half and adds to the unit's status; where a product
is a NaN and its element is not, the code is a free value (log entry 3). -/
def Obligations.UnitVectorInstructions : Prop :=
  ∀ (s : Machine.State) (u : BankId) (d a b : BitVec 5),
  let lanes := fun (x : UnitSt) (i : BitVec 5) => lanes32 (vGet x i.toNat)
  let put := fun (x : UnitSt) (ls : List W32) => nextPc (vPut x d.toNat (ofLanes32 ls))
  let two := fun (f : W32 → W32 → W32) (x : UnitSt) => put x (List.zipWith f (lanes x a) (lanes x b))
  let each := fun (f : W32 → W32) (x : UnitSt) => put x ((lanes x a).map f)
  UnitGives s u (.vec .iadd d a b) (.iadd u d a b) 1 0 (two fun v w => v + w)
  ∧ UnitGives s u (.vec .isha d a b) (.isha u d a b) 1 0 (two fun v w => v * 256 + w)
  ∧ UnitGives s u (.lane .cvti d a) (.cvti u d a) 1 0 (each fun v => f32OfInt v.toInt)
  ∧ UnitGives s u (.lane .cvth d a) (.cvth u d a) 1 0 (fun x =>
      put x ((List.range 8).map fun i => f32OfF16 ((vGet x a.toNat).getD i 0).toNat))
  ∧ UnitGives s u (.vec .fadd d a b) (.fadd u d a b) 1 0 (two f32Add)
  ∧ UnitGives s u (.vec .fsub d a b) (.fsub u d a b) 1 0 (two f32SubOp)
  ∧ UnitGives s u (.vec .fmul d a b) (.fmul u d a b) 1 0 (two f32Mul)
  ∧ UnitGives s u (.vec .ffma d a b) (.ffma u d a b) 1 0 (fun x => put x ((List.range 8).map fun i =>
      f32Fma ((lanes x a).getD i 0) ((lanes x b).getD i 0) ((lanes x d).getD i 0)))
  ∧ (∀ lane : BitVec 3, UnitGives s u (.fbc d a lane) (.fbc u d a lane) 1 0 fun x => put x (List.replicate 8 ((lanes x a).getD lane.toNat 0)))
  ∧ UnitGives s u (.lane .fred d a) (.fred u d a) 3 0 (fun x => put x (pairReduce 3 (lanes x a) :: (lanes x d).drop 1))
  ∧ UnitGives s u (.lane .fexp2 d a) (.fexp2 u d a) 12 0 (each exp2K)
  ∧ UnitGives s u (.lane .frsq d a) (.frsq u d a) 20 0 (each rsqrtK)
  ∧ UnitGives s u (.lane .frcp d a) (.frcp u d a) 22 0 (each rcpK)
  ∧ UnitGives s u (.lane .fsilu d a) (.fsilu u d a) 44 0 (each siluK)
  ∧ ∀ half : BitVec 1, UnitRuns s u (.fq16 d a b half) →
      let x := unitNow s u
      let inv := (lanes x b).getD 0 0
      let qs := (lanes x a).map fun v => quant16 v inv
      (∀ v ∈ lanes x a, f32IsNan v = false → f32IsNan (f32Mul v inv) = false) →
      Completes (.fq16 u d a b half) s fun t =>
        let y := unitOf t (bankOf u)
        let codes : List W16 := qs.map fun q => BitVec.ofInt 16 q.code
        vGet y d.toNat = (if half = 0 then codes ++ (vGet x d.toNat).drop 8 else (vGet x d.toNat).take 8 ++ codes)
          ∧ (∀ i, i ≠ d.toNat → vGet y i = vGet x i) ∧ y.nan = x.nan + (qs.filter (·.nan)).length
          ∧ y.clamp = x.clamp + (qs.filter (·.clamp)).length
          ∧ y.wide = (x.wide || codes.any fun c => decide (127 < c.toInt.natAbs))
          ∧ y.s = x.s ∧ y.lut = x.lut ∧ y.rb = x.rb ∧ y.clocks = x.clocks + 2 ∧ y.pc = (nextPc x).pc ∧ t.mem = s.mem

/-- O51 (R196; R199; R238; R239). A row operation that a unit executes without a fault writes the row of its window that S[D] names, from the rows
as they were: ROW_COPY, ROW_NOT, ROW_AND, ROW_OR, ROW_XOR and the bitwise majority of ROW_MAJ3. No other byte of the stacks changes, and the unit
goes on to its next instruction. -/
def Obligations.RowOperationsWriteTheirRow : Prop :=
  ∀ (s : Machine.State) (u : BankId) (d a b : BitVec 4),
  let key := bankOf u
  let x := unitNow s u
  let at_ := fun r : BitVec 4 => (windowRow (unitState s u) key x false (sGet x r).toNat).getD 0
  let ok := fun (c : Code) (i : Instr) (f : Byte → Byte → Byte → Byte) => UnitRuns s u c → Completes i s fun t =>
    RowBecomes s t key (at_ d) (fun n => f (rowByte s key (at_ d) n) (rowByte s key (at_ a) n) (rowByte s key (at_ b) n))
      ∧ unitOf t key = nextPc { x with clocks := x.clocks + 1 } ∧ t.entries = s.entries ∧ t.objs = s.objs
  ok (.rowop .copy d a 0) (.rowCopy u d a) (fun _ v _ => v)
  ∧ ok (.rowop .not d a 0) (.rowNot u d a) (fun _ v _ => ~~~ v)
  ∧ ok (.rowop .and d a b) (.rowAnd u d a b) (fun _ v w => v &&& w)
  ∧ ok (.rowop .or d a b) (.rowOr u d a b) (fun _ v w => v ||| w)
  ∧ ok (.rowop .xor d a b) (.rowXor u d a b) (fun _ v w => v ^^^ w)
  ∧ ok (.rowop .maj3 d a b) (.rowMaj3 u d a b) (fun z v w => z &&& v ||| z &&& w ||| v &&& w)

/-- O52 (R213; R235; R237; R251; R253; R255; R257; R258; R259; R339). On an existing bank of a stack within its curve a REFRESH advances the bank's
place in its window, counts, and at the window's end starts the activation counts of the bank again; a targeted refresh of a row whose count has
reached STK_ACT.TH clears the count, and one before that changes nothing; a patrol read of a protected row of a shared channel counts its corrected
and uncorrectable codewords; a daily check of the block at the stack's position counts it and goes on to the next, or ends the sweep, counts it and
starts over; a failing block becomes REPAIRING, and a mask copy of a good one holds the image's bytes; a recheck of a REPAIRING block reloads it
from the master copy, or without one fails it. A check or a reload whose memory channel is in processor mode waits; beyond the blocks of the
interval nothing is checked. No memory but the reloaded block and the mask copies changes. A refresh of board memory changes nothing. -/
def Obligations.RefreshPatrolAndDailiesAct : Prop :=
  ∀ (u : BankId) (s : Machine.State), running s = true → u.stack < 32 → u.chan < 32 → u.bank < 32 →
  let key := bankOf u
  let more := fun (t : Machine.State) (f : Fld) (n : Nat) => rd0 t (inst f u.stack) = min (rd0 s (inst f u.stack) + n) (2 ^ f.width - 1)
  (rd0 s (inst STK_REF_STS_TEMP u.stack) ≤ bits (rd0 s (inst STK_REF_TEMP u.stack)) 56 8 → Completes (.refresh u) s fun t =>
      let pos := (mapGetD s.refPos key 0 + 1) % 6144
      mapGetD t.refPos key 0 = pos ∧ more t STK_REF_CNT 1
        ∧ (if pos = 0 then ∀ a ∈ t.actCnt, a.1 / 98304 ≠ key else t.actCnt = s.actCnt) ∧ SameContent s t)
  ∧ (∀ row, rd0 s (inst STK_ACT_TH u.stack) ≤ mapGetD s.actCnt (actKeyOf key row) 0 → Completes (.targetedRefresh u row) s fun t =>
      mapGetD t.actCnt (actKeyOf key row) 0 = 0 ∧ (∀ r, r ≠ actKeyOf key row → mapGetD t.actCnt r 0 = mapGetD s.actCnt r 0)
        ∧ more t STK_TREF_CNT 1 ∧ SameContent s t)
  ∧ (∀ row c ue, patrolOpen s key row = true → Completes (.patrolRead u row c ue) s fun t =>
      (0 < c → more t STK_ECC_CORR c) ∧ (0 < ue → more t STK_ECC_UNCORR ue) ∧ SameContent s t)
  ∧ (∀ row, mapGetD s.actCnt (actKeyOf key row) 0 < rd0 s (inst STK_ACT_TH u.stack) → exec (.targetedRefresh u row) s = .next { s with sent := [] })
  ∧ (∀ stuck, let c := Instr.dailyCheck ⟨u.stack, stuck⟩
      let at_ := fun t => (rd0 t (inst RGN_DLY_POS_OBJ u.stack), rd0 t (inst RGN_DLY_POS_BLOCK u.stack))
      let place := fun p : Option (Nat × Nat) => ((p.getD (0, 0)).1 % 2 ^ RGN_DLY_POS_OBJ.width, (p.getD (0, 0)).2 % 2 ^ RGN_DLY_POS_BLOCK.width)
      let may := dailiesRun s = true ∧ mapGetD s.plan.daily u.stack 0 < dailyRoom s u.stack ∧ dailyWaits s u.stack = false
      (¬ may → exec c s = .next { s with sent := [] })
      ∧ (may → ∀ o i, dailyNext s u.stack = some (o, i) →
        (∀ h, blockHeld s (objOf s o) i = some h → exec c s = .next (hold { s with sent := [] } h c))
        ∧ (blockHeld s (objOf s o) i = none →
          (Completes c s fun t => more t RGN_DLY_CHECKED 1 ∧ mapGetD t.plan.daily u.stack 0 = mapGetD s.plan.daily u.stack 0 + 1
            ∧ (maskCopies s = [] → SameMemory s t) ∧ t.entries = s.entries
            ∧ (blockMatches s (objOf s o) i = true → t.objs = s.objs
                ∧ (∀ p, dailyFrom s u.stack o (i + 1) = some p → at_ t = place (some p)
                    ∧ rd0 t (inst RGN_DLY_SWEEPS u.stack) = rd0 s (inst RGN_DLY_SWEEPS u.stack))
                ∧ (dailyFrom s u.stack o (i + 1) = none → at_ t = place (dailyFrom s u.stack 0 0)
                    ∧ rd0 t (inst RGN_DLY_SWEEPS u.stack) = (rd0 s (inst RGN_DLY_SWEEPS u.stack) + 1) % 2 ^ RGN_DLY_SWEEPS.width))
            ∧ (blockMatches s (objOf s o) i = false → (objOf t o).repairing.contains i = true ∧ ∀ p, p ≠ o → objOf t p = objOf s p))
          ∧ ∀ k2 key2 row a, maskCopies s = [(k2, key2, row, a)] → (objOf s o).base + 65536 * i ≤ a → a < (objOf s o).base + 65536 * (i + 1) →
              blockMatches s (objOf s o) i = true → dailyFrom s u.stack o (i + 1) ≠ none → (key2, row) ∉ stuck →
              Completes c s fun t => RowBecomes s t key2 row (fun b => uRead s (a + b))))
      ∧ (may → dailyNext s u.stack = none → dailyFrom s u.stack 0 0 = none → maskCopies s = [] → Completes c s fun t =>
          rd0 t (inst RGN_DLY_SWEEPS u.stack) = (rd0 s (inst RGN_DLY_SWEEPS u.stack) + 1) % 2 ^ RGN_DLY_SWEEPS.width ∧ at_ t = place none
            ∧ SameContent s t))
  ∧ (∀ o i hostData, let c := Instr.dailyRecheck u.stack o i hostData
      (objOf s o).repairing.contains i = true → dailyWaits s u.stack = false →
      (∀ h, reloadHeld s (objOf s o) i = some h → exec c s = .next (hold { s with sent := [] } h c))
      ∧ (reloadHeld s (objOf s o) i = none → Completes c s fun t =>
        ((objOf t o).repairing = (objOf s o).repairing.filter (· ≠ i)) ∧ (s.migs = [] → ∀ p, p ≠ o → objOf t p = objOf s p) ∧ t.entries = s.entries
          ∧ (masterBytes s (objOf s o) i hostData = none → more t RGN_DLY_FAILED 1 ∧ SameMemory s t)
          ∧ (∀ bs, masterBytes s (objOf s o) i hostData = some bs →
              let a := (objOf s o).base + 65536 * i
              let w := stallWrite s a bs.length
              t.mem = (uWrite w a bs).mem ∧ t.board = (uWrite w a bs).board)))
  ∧ ∀ chan rank bank, exec (.boardMemoryRefresh chan rank bank) s = .next { s with sent := [] }

/-- O53 (R169; R233; R288; R297; R298; R299; R300; R339; R341; R342). An idle engine takes up the next granule of the object's pass that needs a
copy: its translation entry says COPYING, and the copy ends within the step or later. At its end, up, the translation entry names the stacks, which
hold the granule, and the board keeps its bytes; down, the entry names the board, which holds the bytes of a DIRTY granule but for one that an
uncorrectable read left open, and the stacks keep theirs; a promotion that meets an uncorrectable read of a page that is not in zero-state leaves
its granule at its source to be tried again, and the second failure raises BOARD_UE. A pass that has ended takes the transition of the table in
force, and under the default table leads to PACKAGE or DEMOTING, and to PROMOTING or BOARD. A relocation moves a RETIRING compute granule's bytes to
the bank's lowest free one and records the remap. A fill that completes leaves its page in use; a closed absmax interval is written to host memory
and counted, its records start again, and while the host cannot receive it it waits and the drop is counted. -/
def Obligations.MigrationRelocationAndFillsAct : Prop :=
  ∀ (s : Machine.State), running s = true →
  (∀ engine n copy, engine < 2 → n < 65536 →
    let c := Instr.migrationCopy engine n copy
    let o := objOf s n
    let g := passNext s o o.size o.pass
    let lands := fun (r : MigRun) => Completes c s fun t =>
      let p := objOf s r.obj
      let k := p.base / 2 ^ 21 + r.gran
      let e := { xentOf s k with copying := false }
      let y := objOf t r.obj
      mapGet t.migs engine = none ∧ rd0 t (migBusy engine) = 0 ∧ t.entries = s.entries ∧ (∀ m, m ≠ r.obj → objOf t m = objOf s m)
        ∧ (if r.up then
            if r.ue && boardLive s e.bg then
              SameMemory s t ∧ xentOf t k = e ∧ y.failures = p.failures + 1 ∧ y.pass ≤ r.gran
                ∧ (p.failures = 1 → if p.shared then FrameErrorRaised s t else TenantErrorRaised s t)
            else t.mem = (copyUp s p r.gran e.bg).mem ∧ t.board = s.board ∧ y.failures = 0
              ∧ xentOf t k = { e with loc := .stack, sg := p.bands.getD (r.gran / bandBanks p) 0, dirty := false }
              ∧ rd0 t MIG_PROMO_CNT = min (rd0 s MIG_PROMO_CNT + 1) (2 ^ 48 - 1)
          else t.mem = s.mem ∧ xentOf t k = { e with loc := .board, dirty := false }
            ∧ rd0 t MIG_DEMO_CNT = min (rd0 s MIG_DEMO_CNT + 1) (2 ^ 48 - 1)
            ∧ (e.dirty = false → t.board = s.board)
            ∧ (e.dirty = true → (r.ue = false ∨ p.prot = true → t.board = (copyDown s p r.gran e.bg).board)
                ∧ ∀ a, a ≠ e.bg * 2 ^ 21 → memRead t.board a = memRead (copyDown s p r.gran e.bg).board a))
    (∀ r, mapGet s.migs engine = some r → (copy.commits = true → lands r) ∧ (copy.commits = false → exec c s = .next { s with sent := [] }))
    ∧ (mapGet s.migs engine = none → migReady s n = false → exec c s = .next { s with sent := [] })
    ∧ (mapGet s.migs engine = none → migReady s n = true →
        (o.size ≤ g → Completes c s fun t => objOf t n = { o with pass := g } ∧ (∀ m, m ≠ n → objOf t m = objOf s m) ∧ SameMemory s t
            ∧ t.migs = s.migs ∧ t.xlat = s.xlat ∧ t.entries = s.entries)
        ∧ (g < o.size →
          (copy.commits = true → lands ⟨n, g, o.st = .promoting, copy.failed, copy.corr⟩)
          ∧ (copy.commits = false → Completes c s fun t => mapGet t.migs engine = some ⟨n, g, o.st = .promoting, copy.failed, copy.corr⟩
              ∧ rd0 t (migBusy engine) = 1 ∧ (xentOf t (o.base / 2 ^ 21 + g)).copying = true ∧ objOf t n = { o with pass := g + 1 }
              ∧ (∀ m, m ≠ n → objOf t m = objOf s m) ∧ SameMemory s t ∧ t.entries = s.entries))))
  ∧ (∀ n ev c, (c = Instr.doneClaimed n ∧ ev = 3 ∧ (objOf s n).claims ≠ 0) ∨ (c = Instr.doneUnclaimed n ∧ ev = 4 ∧ (objOf s n).claims = 0) →
      (passDone s n = false ∨ migRecord s n ev = none → exec c s = .next { s with sent := [] })
      ∧ ∀ r, passDone s n = true → migRecord s n ev = some r → r.action ≠ 1 → r.action ≠ 4 → r.action ≠ 5 → Completes c s fun t =>
          objOf t n = { objOf s n with st := objOfCode r.next, pass := 0 } ∧ (∀ m, m ≠ n → objOf t m = objOf s m) ∧ SameMemory s t
            ∧ t.xlat = s.xlat ∧ t.entries = s.entries)
  ∧ (∀ n, mapGet s.cfg.mach 1 = none → passDone s n = true →
    ((objOf s n).claims ≠ 0 → Completes (.doneClaimed n) s fun t =>
        (objOf t n).st = (if (objOf s n).st = .promoting then .package else .promoting) ∧ (objOf t n).pass = 0
          ∧ (∀ m, m ≠ n → objOf t m = objOf s m) ∧ t.mem = s.mem ∧ t.board = s.board ∧ t.xlat = s.xlat ∧ t.entries = s.entries)
    ∧ ((objOf s n).claims = 0 → Completes (.doneUnclaimed n) s fun t =>
        (if (objOf s n).st = .promoting then (objOf t n).st = .demoting ∧ (objOf t n).bands = (objOf s n).bands ∧ t.strikes = s.strikes
         else (objOf t n).st = .board ∧ (objOf t n).bands = [] ∧ ∃ x, t.strikes = s.strikes ++ [x] ∧ x.owner = .bands n (objOf s n).bands)
          ∧ (∀ m, m ≠ n → objOf t m = objOf s m) ∧ t.mem = s.mem ∧ t.board = s.board ∧ t.xlat = s.xlat ∧ t.entries = s.entries))
  ∧ (∀ (u : BankId) (g d : Nat), u.stack < 32 → u.chan < 30 → u.bank < 32 → g < 48 → granOf s (bankOf u) g = .retiring →
      bound s u.stack u.chan ≤ g → (mapGetD s.remap (bankOf u) []).length < 4 → relocTarget s (bankOf u) = some d →
      let at_ := fun x => (bankOf u * 98304 + x * 2048) * 1024
      Completes (.granuleRelocate u g) s fun t =>
        mapGet t.remap (bankOf u) = some (mapGetD s.remap (bankOf u) [] ++ [(g, d)]) ∧ granOf t (bankOf u) g = .retired
          ∧ (∀ i < 2097152, memRead t.mem (at_ d + i) = memRead s.mem (at_ g + i))
          ∧ (∀ a, (a < at_ d ∨ at_ d + 2097152 ≤ a) → memRead t.mem a = memRead s.mem a)
          ∧ rd0 t MIG_RELOC_CNT = min (rd0 s MIG_RELOC_CNT + 1) (2 ^ 32 - 1) ∧ t.objs = s.objs ∧ t.entries = s.entries)
  ∧ (∀ p ∈ s.boardFilling, Completes (.boardPageFillDone p) s fun t =>
      p ∉ t.boardFilling ∧ p ∈ t.boardUsed ∧ rd0 t BDM_FILL_CNT = min (rd0 s BDM_FILL_CNT + 1) (2 ^ 32 - 1) ∧ SameContent s t)
  ∧ (∀ p, p ∉ s.boardFilling → exec (.boardPageFillDone p) s = .next { s with sent := [] })
  ∧ ∀ r < 4,
    ((reelOf s r).closed = none ∨ s.frame.kind ≠ .frame ∨ s.frame.phase ≠ .roll → exec (.amaxWriteout r) s = .next { s with sent := [] })
    ∧ ∀ m first last, (reelOf s r).closed = some (m, first, last) → s.frame.kind = .frame → s.frame.phase = .roll →
      (rd0 s (fldAt STA_AMAX_BASE r 8) = 0 ∨ confidential s = true → Completes (.amaxWriteout r) s fun t =>
        t.sent = [] ∧ reelOf t r = { reelOf s r with closed := none, amax := [] } ∧ rd0 t STA_AMAX_SEQ = rd0 s STA_AMAX_SEQ ∧ SameMemory s t
          ∧ t.entries = s.entries ∧ t.objs = s.objs)
      ∧ (rd0 s (fldAt STA_AMAX_BASE r 8) ≠ 0 → confidential s = false →
        (canWrite s 0 = false → Completes (.amaxWriteout r) s fun t =>
          t.sent = [] ∧ rd0 t PCI_DROP = min (rd0 s PCI_DROP + 1) (2 ^ PCI_DROP.width - 1) ∧ SameContent s t)
        ∧ (canWrite s 0 = true → Completes (.amaxWriteout r) s fun t =>
          t.sent = [.host 0 (rd0 s (fldAt STA_AMAX_BASE r 8)) (amaxTable r (reelOf s r).stages.length first last m) (tdiRun s 0)]
            ∧ reelOf t r = { reelOf s r with closed := none, amax := [] } ∧ rd0 t STA_AMAX_SEQ = (rd0 s STA_AMAX_SEQ + 1) % 2 ^ 32
            ∧ SameMemory s t ∧ t.entries = s.entries ∧ t.objs = s.objs))

/-- O54 (R213; R235; R280; R304; R305; R382). Through the open aperture outside CONFIDENTIAL mode a read answers with the bytes at its unified
address, but for those of a codeword whose read cannot be corrected, and a write lands there; a range that is not mapped throughout counts as a
drop. When a memory channel in processor mode holds a byte of the range the access waits and is counted, and one that comes behind a waiting access
waits too. Outside the window, or in CONFIDENTIAL mode, an access is an Unsupported Request and changes nothing. -/
def Obligations.ApertureAccessesAct : Prop :=
  ∀ (x : Nat) (r : ReadIn) (bs : Bytes) (s : Machine.State), running s = true →
  let a := apertureAddr s x
  let drops := fun (t : Machine.State) (n : Nat) =>
    rd0 t UMR_APT_DROP = if rangeUnmapped s a n then min (rd0 s UMR_APT_DROP + 1) (2 ^ UMR_APT_DROP.width - 1) else rd0 s UMR_APT_DROP
  let form := fun (c : Instr) (n : Nat) (P : Machine.State → Prop) =>
    (apertureOpen s x n = false ∨ confidential s = true → exec c s = .next { s with sent := [.unsupportedRequest] })
    ∧ (apertureOpen s x n = true → confidential s = false →
        (∀ k, rangeHeld s a n = some k → exec c s = .next (hold { s with sent := [] } k c))
        ∧ (rangeHeld s a n = none → s.apertureQ.any isAperture = true → exec c s = .next { s with sent := [], apertureQ := s.apertureQ ++ [c] })
        ∧ (rangeHeld s a n = none → s.apertureQ.any isAperture = false → Completes c s fun t => t.apertureQ = s.apertureQ ∧ drops t n ∧ P t))
  form (.apertureRead x r) r.len (fun t => ∃ d : Bytes, t.sent = [.readData d] ∧ d.length = r.len ∧ SameContent s t
      ∧ ∀ i < r.len, (∀ b ∈ r.errs.bad, canFail s b = true → b / 64 ≠ (a + i) / 64) → d.getD i 0 = uRead s (a + i))
  ∧ form (.apertureWrite x bs) bs.length (fun t => t.sent = [] ∧ Wrote s t a bs)

/-- O55 (R339; R346; R347; R348; R463; R464; R465; R468; R470; R473; R474; R481). The end of an epoch counts it, starts every monitor's worst value
again and raises GUARD by 5 mV where the slack is below its limit and the rail allows it. An error-free canary read raises its bank's margin; a
monitor's report is kept. The core rail takes its voltage. A governor's sample adds to the energy and the averages, records the limit in force, and
raises the array level when its domain is over its share. A renewal closes the averages and renews the telemetry block. MR4 keeps its maximum. Reads
of a flash block that holds data are counted with their retries; at READ_LIMIT thousand reads or the correction margin its data moves to the free
block with the lowest erase count and it is erased. Wear levelling moves the least-erased block's data to the most-erased free one while the LUN's
counts differ by more than WEAR_GAP. A block whose erase or program fails is bad and counted, and its data goes to the free block with the lowest
erase count. Neither memory nor the call sheet changes. -/
def Obligations.AgeingPowerAndFlashAct : Prop :=
  ∀ (s : Machine.State), running s = true →
  (Completes .epochEnd s fun t => rd0 t AGE_STS_EPOCH = (rd0 s AGE_STS_EPOCH + 1) % 2 ^ 32 ∧ t.ops.slack = none ∧ t.ops.rosc = 0
      ∧ t.ops.eyes = [] ∧ t.ops.canary = [] ∧ SameContent s t
      ∧ ∀ v : Int, s.ops.slack = some v → v < rd0 s AGE_LIM_SLACK_PS → s.ops.block.guard + 5 ≤ 60 →
          coreNeed s s.ops.block.ceiling (s.ops.block.guard + 5) ≤ 850 → t.ops.block.guard = s.ops.block.guard + 5)
  ∧ (∀ u k, unitExists u = true → 2 ≤ k → k ≤ 8 → hasCanary s (bankOf u) = true → chanHeld s (bankOf u) = false →
      Completes (.canaryRead u k true) s fun t =>
        mapGet t.ops.canary (bankOf u) = some (max k (mapGetD s.ops.canary (bankOf u) 0)) ∧ t.regs = s.regs ∧ SameContent s t)
  ∧ (∀ a ps, a < 64 → Completes (.monitorReport (.replica a ps)) s fun t =>
      t.ops.slack = some (match s.ops.slack with | some v => min v ps | none => ps) ∧ t.regs = s.regs ∧ SameContent s t)
  ∧ (∀ k c, k < 152 → Completes (.monitorReport (.temp k c)) s fun t =>
      mapGetD t.ops.temps k 0 = c ∧ mapGetD t.ops.peaks k 0 = max c (mapGetD s.ops.peaks k 0)
        ∧ rd0 t TMP_MAX_TEMP = min (hottestSensor t).2 255 ∧ SameContent s t)
  ∧ (∀ r mv da, r < 5 → Completes (.monitorReport (.power r mv da)) s fun t =>
      mapGetD t.ops.rails r (0, 0) = (mv, da) ∧ t.regs = s.regs ∧ SameContent s t)
  ∧ (let v := (max 650 (min 850 (coreNeed s (rd0 s AGE_ACLK_MHZ) (rd0 s AGE_GUARD_MV)))).toNat
     Completes .coreRailUpdate s fun t => rd0 t AGE_ACLK_VCORE_MV = v ∧ t.sent = [.vout v] ∧ OnlyFields [regKey 0 AGE_ACLK_VCORE_MV] s t
       ∧ SameContent s t)
  ∧ (∀ h a k, Completes (.governorSample h a k) s fun t =>
      t.ops.energy = s.ops.energy + (h + a + k) ∧ t.ops.samples = s.ops.samples + 1 ∧ t.ops.sumArray = s.ops.sumArray + a
        ∧ rd0 t PWR_ENERGY = (s.ops.energy + (h + a + k)) / 100 % 2 ^ 64 ∧ rd0 t PWR_LVL_EFF_W = effectiveLimit s % 2 ^ 12
        ∧ (effectiveLimit s < h + a + k → ((effectiveLimit s : Int) - h) * rd0 s PWR_SPLIT_ARRAY < a * 1000 → rd0 s PWR_LVL_A < 15 →
            rd0 t PWR_LVL_A = rd0 s PWR_LVL_A + 1) ∧ SameContent s t)
  ∧ (Completes .telemetryRenew s fun t => t.ops.telSeq = (s.ops.telSeq + 1) % 65536 ∧ t.ops.samples = 0 ∧ t.ops.telemetry = telemetryBlock t
      ∧ (s.ops.samples ≠ 0 → rd0 t PWR_NOW = powerAverage s % 2 ^ 64) ∧ SameContent s t)
  ∧ (∀ step : BitVec 2, exec (.mr4Read step) s = .next (wr0 { s with sent := [] } BDM_STS_MR4_MAX (max (rd0 s BDM_STS_MR4_MAX) step.toNat)))
  ∧ (let erased := fun x : FlashBlk => { x with erases := x.erases + 1, reads := 0, region := none }
     let goes := fun (t : Machine.State) (a want : Nat) (q : Option Nat) (moved : FlashBlk) => ∃ f ∈ freeBlocks s, f ≠ a
      ∧ (∀ x ∈ freeBlocks s, x ≠ a → (flashBlock s f).erases ≤ (flashBlock s x).erases)
      ∧ (want ∈ freeBlocks s → want ≠ a → (∀ x ∈ freeBlocks s, x ≠ a → (flashBlock s want).erases ≤ (flashBlock s x).erases) → f = want)
      ∧ flashBlock t f = { flashBlock s f with region := q, reads := 0 } ∧ flashBlock t a = moved
        ∧ ∀ x, x ≠ a → x ≠ f → flashBlock t x = flashBlock s x
     (∀ a r, let x := flashBlock s a
        let read := { x with reads := x.reads + r.reads }
        let due := r.worst = true ∨ rd0 s FLC_POLICY_READ_LIMIT * 1000 ≤ read.reads
        (holdsData s a = false → exec (.readLimitRewrite a r) s = .next { s with sent := [] })
        ∧ (holdsData s a = true → Completes (.readLimitRewrite a r) s fun t =>
          rd0 t FLC_ECC_RETRY = min (rd0 s FLC_ECC_RETRY + max r.retried r.uncorr) (2 ^ FLC_ECC_RETRY.width - 1)
            ∧ rd0 t FLC_ECC_UNCORR = min (rd0 s FLC_ECC_UNCORR + r.uncorr) (2 ^ FLC_ECC_UNCORR.width - 1) ∧ SameContent s t
            ∧ (¬ due ∨ (∀ f ∈ freeBlocks s, f = a) → flashBlock t a = read ∧ ∀ y, y ≠ a → flashBlock t y = flashBlock s y)
            ∧ (due → (∃ f ∈ freeBlocks s, f ≠ a) → goes t a r.fresh x.region (erased x)
                ∧ rd0 t FLC_RELOC_CNT = min (rd0 s FLC_RELOC_CNT + 1) (2 ^ 32 - 1))))
     ∧ (∀ lun src dst, let c := Instr.wearLevel lun src dst
        (wearSource s lun src = none ∨ wearTarget s lun dst = none ∨ worn s lun = false → exec c s = .next { s with sent := [] })
        ∧ ∀ a f, wearSource s lun src = some a → wearTarget s lun dst = some f → worn s lun = true → a ≠ f → Completes c s fun t =>
          flashBlock t a = erased (flashBlock s a) ∧ flashBlock t f = { flashBlock s f with region := (flashBlock s a).region, reads := 0 }
            ∧ (∀ x, x ≠ a → x ≠ f → flashBlock t x = flashBlock s x)
            ∧ rd0 t FLC_RELOC_CNT = min (rd0 s FLC_RELOC_CNT + 1) (2 ^ 32 - 1) ∧ SameContent s t)
     ∧ ∀ m, let a := m.block
        let bad := { flashBlock s a with bad := true, region := none }
        Completes (.flashProgramFail m) s fun t => SameContent s t ∧ rd0 t FLC_BAD = min (badBlocks t) (2 ^ 16 - 1)
          ∧ (bootArea a = true ∨ (flashBlock s a).region = none ∨ (∀ f ∈ freeBlocks s, f = a) → flashBlock t a = bad
              ∧ ∀ y, y ≠ a → flashBlock t y = flashBlock s y)
          ∧ ∀ q, bootArea a = false → (flashBlock s a).region = some q → (∃ f ∈ freeBlocks s, f ≠ a) → goes t a m.fresh (some q) bad)

/-- O56 (R402; R408; R479; R492; R493; R500; R502; R503). A thermal trip pulls THERM_TRIP_N low and changes nothing else. A regulator's alert is
counted and a DEVICE-class error held. A fall of PWR_OK or PERST_N resets everything but what lies in flash and stops the clocks; a rise of PERST_N
with PWR_OK high samples BOOT_SEL and starts the chain. Start-up with a host selection, or with no firmware copy that verifies, waits for the host
with the recovery window ready; with a copy that verifies it completes where the base configuration passes its checks, and with no START record
every byte of the stacks is zero; where it does not, start-up stops with a DEVICE-class error held. -/
def Obligations.PinsAndStartUpAct : Prop :=
  ∀ (s : Machine.State),
  (running s = true → exec .thermTrip s = .next { s with sent := [], pins := { s.pins with thermTripN := false } }
    ∧ Completes .vrAlert s fun t => rd0 t PWR_VR_ALERT_CNT = min (rd0 s PWR_VR_ALERT_CNT + 1) (2 ^ 32 - 1) ∧ rd0 t ERL_HELD_DEVICE = 1
      ∧ OnlyReports s t)
  ∧ exec .pwrOkRise s = .next { s with sent := [], pins := { s.pins with pwrOk := true } }
  ∧ (let cold := fun t : Machine.State => t.regs = [] ∧ t.mem = [] ∧ t.board = [] ∧ t.entries = [] ∧ t.objs = [] ∧ t.reels = [] ∧ t.units = []
        ∧ t.ring = [] ∧ t.shadow = [] ∧ t.frame = frameZero ∧ t.flash = s.flash ∧ t.ops.ledger = s.ops.ledger ∧ t.erl.log = s.erl.log
        ∧ t.cfg.stored = s.cfg.stored ∧ t.cfg.flashBase = s.cfg.flashBase ∧ t.cfg.copies = s.cfg.copies ∧ t.cfg.files = s.cfg.files
        ∧ t.boardRetired = s.boardRetired ∧ running t = false
     Completes .pwrOkFall s (fun t => cold t ∧ t.pins = ⟨false, false, true, s.pins.bootSel, .chain, .idcode⟩)
      ∧ Completes .perstFall s fun t => cold t ∧ t.pins = { s.pins with perstN := false, boot := .chain })
  ∧ (∀ b : BitVec 2, s.pins.pwrOk = true → s.pins.perstN = false → exec (.perstRise b) s = .next { s with sent := [], pins := { s.pins with
      perstN := true, bootSel := if b = 1 then 1 else 0, boot := .chain, tap := if s.pins.tap = .extest then .bypass else s.pins.tap } })
  ∧ ∀ b : BootIn, running s = true → s.pins.boot = .chain →
    (s.pins.bootSel = 1 → Completes (.bootComplete b) s fun t => t.pins.boot = .hostWait ∧ rd0 t ERL_RCV_READY = 1
        ∧ (b.pufOk = true → rd0 t MTP_ID_OK = 1) ∧ t.entries = s.entries)
    ∧ (s.pins.bootSel ≠ 1 → b.copyA = false → b.copyB = false → s.cfg.copies = 0 → Completes (.bootComplete b) s fun t =>
        t.pins.boot = .hostWait ∧ rd0 t ERL_RCV_READY = 1 ∧ rd0 t ERL_HELD_DEVICE = 1 ∧ t.entries = s.entries)
    ∧ (s.pins.bootSel ≠ 1 → ∀ k, bootCopy s b = some k →
        let base := s.cfg.flashBase.getD b.base
        let ok := baseOk (measureFirmware (wr0 (stage1 { s with sent := [] } b) FLC_STS_BOOT_COPY k) b) base
        (base.sigOk = true → ok = true → Completes (.bootComplete b) s fun t => t.pins.boot = .done ∧ (base.start = [] → t.mem = []))
        ∧ (base.sigOk = false ∨ ok = false → Completes (.bootComplete b) s fun t =>
            t.pins.boot = .stopped ∧ rd0 t ERL_HELD_DEVICE = 1 ∧ t.mem = s.mem ∧ t.entries = s.entries))

/-- O57 (R378; R394; R399; R400; R422; R426). A function-level reset of a virtual function puts it into reset with its commands gone and its TDI
unlocked, and a bound tenant's ACTIVE slot into revocation with STRIKING set, or joins the revocation in progress; one of the physical function puts
every function into reset. The function whose configuration space answers leaves reset with its FRS message, unless its strike still runs; the
physical function, unless a revocation does. Bus Master Enable and D3hot take their value. An L0p increase, or a reduction outside Slate and Roll,
is taken at once, another one waits; the one that waits is taken when no phase runs. -/
def Obligations.FunctionsAndTheHostLinkAct : Prop :=
  ∀ (s : Machine.State), running s = true →
  (∀ fn, 1 ≤ fn → fn < 32 →
    let gone := fun t : Machine.State => (fnOf t fn).inFlr = true ∧ (fnOf t fn).flrAnswer = true ∧ (fnOf t fn).bme = false
      ∧ (∀ c ∈ t.ring, ∀ h, cmdHdrOf c = some h → h.fn ≠ fn) ∧ tdiState t fn = 0
    (tenantOf s fn = none → Completes (.flr fn) s fun t => gone t ∧ SameContent s t)
    ∧ ∀ k < 32, tenantOf s fn = some k →
      (slotState s k = 1 → revokeOf s k = none → Completes (.flr fn) s fun t =>
        gone t ∧ rd0 t (fldAt PCI_FN_STRIKING fn 8) = 1 ∧ slotState t k = 2
          ∧ (∃ r, revokeOf t k = some r ∧ r.flr = [fn] ∧ r.remove = false ∧ r.slateSeen = !slatesRun s)
          ∧ (slatesRun s = true → t.entries = s.entries ∧ ((∀ x ∈ s.xfers, xferTenant s x ≠ some k) → SameContent s t)))
      ∧ ∀ r, revokeOf s k = some r → Completes (.flr fn) s fun t => gone t ∧ rd0 t (fldAt PCI_FN_STRIKING fn 8) = 1
          ∧ revokeOf t k = some { r with flr := r.flr.filter (· ≠ fn) ++ [fn] } ∧ SameContent s t)
  ∧ (Completes .pfFlr s fun t => (∀ fn < 32, (fnOf t fn).inFlr = true) ∧ ∀ c ∈ t.ring, ∀ h, cmdHdrOf c = some h → 32 ≤ h.fn)
  ∧ (∀ fn < 32, (fnOf s fn).flrAnswer = true → Completes (.configSpaceReady fn) s fun t => (fnOf t fn).flrAnswer = false ∧ SameContent s t
      ∧ (fn ≠ 0 → rd0 s (fldAt PCI_FN_STRIKING fn 8) ≠ 1 → (fnOf t fn).inFlr = false ∧ .frs fn ∈ t.sent)
      ∧ (fn ≠ 0 → rd0 s (fldAt PCI_FN_STRIKING fn 8) = 1 → (fnOf t fn).inFlr = (fnOf s fn).inFlr)
      ∧ (fn = 0 → (fnOf s 0).inFlr = true → s.trust.revokes = [] → (fnOf t 0).inFlr = false ∧ .frs 0 ∈ t.sent))
  ∧ (∀ fn v, fn < 32 → Completes (.busMasterEnable fn v) s (fun t => (fnOf t fn).bme = v ∧ (fnOf t fn).d3hot = (fnOf s fn).d3hot ∧ SameContent s t)
      ∧ Completes (.d3hot fn v) s fun t => (fnOf t fn).d3hot = v ∧ (fnOf t fn).bme = (fnOf s fn).bme ∧ SameContent s t)
  ∧ (∀ w : BitVec 5, l0pWidths.contains w.toNat = true → w.toNat ≤ rd0 s PCI_LINK_WIDTH → Completes (.l0pRequest w) s fun t => SameContent s t
      ∧ if rd0 s PCI_LINK_L0P_WIDTH ≤ w.toNat ∨ (s.frame.phase ≠ .slate ∧ s.frame.phase ≠ .roll) then
          rd0 t PCI_LINK_L0P_WIDTH = w.toNat ∧ t.l0p = none
        else t.l0p = some w.toNat ∧ t.regs = s.regs)
  ∧ ∀ w, s.l0p = some w → s.frame.phase = .none → Completes .l0pReduce s fun t =>
      rd0 t PCI_LINK_L0P_WIDTH = w % 2 ^ 5 ∧ t.l0p = none ∧ OnlyFields [regKey 0 PCI_LINK_L0P_WIDTH] s t ∧ SameContent s t

/-- O58 (R395; R396; R397; R398; R409; R412; R413; R414; R429). DOE Discovery answers with the protocol of its index. With its identity established
the device answers GET_MEASUREMENTS with its eight measurement registers, takes a report request that no other one of its mailbox precedes, and
programs or clears IDE keys; the report that has been signed leaves with its body (its signatures are free values, log entry 3). LOCK_INTERFACE in
CONFIDENTIAL mode locks an unlocked TDI, START_INTERFACE runs a locked one, STOP_INTERFACE unlocks it; an error moves a locked or running TDI to
ERROR; both of these put a bound tenant's ACTIVE slot into revocation. Without its identity the device refuses the SPDM requests, and a second
report request of one mailbox is answered as busy; a TDISP request from another state is an error. Lane margining keeps the receiver margins of the
host. -/
def Obligations.DoeSpdmAndTdispAnswer : Prop :=
  ∀ (s : Machine.State), running s = true →
  (∀ fn, fn < 32 → flag s MTP_ID_OK = false → (exec (.getMeasurements fn) s = .next { s with sent := [.doe fn .spdmError []] })
      ∧ (∀ nonce, exec (.getReport fn nonce) s = .next { s with sent := [.doe fn .spdmError []] })
      ∧ ∀ l p, exec (.ideKm fn l p) s = .next { s with sent := [.doe fn .spdmError []] })
  ∧ (∀ fn nonce, fn < 32 → flag s MTP_ID_OK = true → (mapGet s.trust.signing fn).isSome = true →
      exec (.getReport fn nonce) s = .next { s with sent := [.doe fn .busy []] })
  ∧ (∀ fn, 1 ≤ fn → fn < 32 → (flag s MTP_ID_OK = false ∨ confidential s = false ∨ tdiState s fn ≠ 0 →
        exec (.lockInterface fn) s = .next { s with sent := [.doe fn .tdispError []] })
      ∧ (flag s MTP_ID_OK = false ∨ tdiState s fn ≠ 1 → exec (.startInterface fn) s = .next { s with sent := [.doe fn .tdispError []] })
      ∧ (tdiState s fn ≠ 1 → tdiState s fn ≠ 2 → exec (.tdiError fn) s = .next { s with sent := [] }))
  ∧ (∀ fn (i : Byte), fn < 32 → exec (.doeDiscovery fn i) s = .next { s with sent := [.doe fn .discovery (doeProtocol i.toNat)] })
  ∧ (∀ fn, fn < 32 → flag s MTP_ID_OK = true →
    exec (.getMeasurements fn) s = .next { s with sent := [.doe fn .measurements
        (mreg s 1 ++ mreg s 2 ++ mreg s 3 ++ mreg s 4 ++ mreg s 5 ++ mreg s 6 ++ mreg s 7 ++ mreg s 8)] }
    ∧ (∀ nonce : BitVec 256, mapGet s.trust.signing fn = none → Completes (.getReport fn nonce) s fun t =>
        mapGet t.trust.signing fn = some nonce.toNat ∧ t.sent = [] ∧ t.regs = s.regs ∧ SameContent s t)
    ∧ (∀ p : Bool, Completes (.ideKm fn true p) s (fun t => rd0 t PCI_LINK_IDE_LINK = p.toNat ∧ t.sent = [.doe 0 .ideKm []] ∧ SameContent s t)
        ∧ Completes (.ideKm fn false p) s fun t => (fnOf t fn).stream = p ∧ t.sent = [.doe 0 .ideKm []] ∧ SameContent s t))
  ∧ (∀ fn nonce, mapGet s.trust.signing fn = some nonce → Completes (.reportSigned fn) s fun t =>
      (∃ sig : Bytes, sig.length = 36048 ∧ t.sent = [.doe fn .report (reportBody s fn nonce ++ sig)])
        ∧ mapGet t.trust.signing fn = none ∧ t.regs = s.regs ∧ SameContent s t)
  ∧ (∀ fn, 1 ≤ fn → fn < 32 →
    (flag s MTP_ID_OK = true →
      (confidential s = true → tdiState s fn = 0 → Completes (.lockInterface fn) s fun t =>
        tdiState t fn = 1 ∧ t.sent = [.doe fn .tdisp []] ∧ OnlyFields [regKey 0 (fldAt PCI_FN_TDISP fn 8)] s t ∧ SameContent s t)
      ∧ (tdiState s fn = 1 → Completes (.startInterface fn) s fun t =>
        tdiState t fn = 2 ∧ t.sent = [.doe fn .tdisp []] ∧ OnlyFields [regKey 0 (fldAt PCI_FN_TDISP fn 8)] s t ∧ SameContent s t)
      ∧ (tenantOf s fn = none → Completes (.stopInterface fn) s fun t => tdiState t fn = 0 ∧ t.sent = [.doe fn .tdisp []] ∧ SameContent s t))
    ∧ (tdiState s fn = 1 ∨ tdiState s fn = 2 → tenantOf s fn = none → Completes (.tdiError fn) s fun t => tdiState t fn = 3 ∧ SameContent s t)
    ∧ ∀ k < 32, tenantOf s fn = some k → slotState s k = 1 → revokeOf s k = none →
      let struck := fun t : Machine.State => rd0 t (fldAt PCI_FN_STRIKING fn 8) = 1 ∧ slotState t k = 2
        ∧ (∃ r, revokeOf t k = some r ∧ r.flr = [fn] ∧ r.slateSeen = !slatesRun s)
        ∧ (slatesRun s = true → t.entries = s.entries ∧ ((∀ x ∈ s.xfers, xferTenant s x ≠ some k) → SameContent s t))
      (flag s MTP_ID_OK = true → Completes (.stopInterface fn) s fun t => tdiState t fn = 0 ∧ struck t)
        ∧ (tdiState s fn = 1 ∨ tdiState s fn = 2 → Completes (.tdiError fn) s fun t => tdiState t fn = 3 ∧ struck t))
  ∧ ∀ v, exec (.laneMargin v) s = .next { s with sent := [], ops := { s.ops with marginHost := v } }

/-- O59 (R480; R481). A target without an address takes the one that ENTDAA assigns, or SETDASA at its static address, and RSTDAA takes it back;
ENEC and DISEC enable and disable in-band interrupts. An addressed target answers GETPID, GETBCR, GETDCR, GETSTATUS and GETMXDS with bytes whose
content the manual does not state (free values, log entry 3), a private write of one byte sets its offset, and a private read inside the block
answers the telemetry bytes from there. No register and no memory changes. -/
def Obligations.I3cCommandsAnswer : Prop :=
  ∀ (s : Machine.State), running s = true →
  let ack := fun (o : OpsSt) (b : Bytes) => (.next { s with ops := o, sent := [.i3cAck b] } : Out)
  (s.ops.i3cAddr = 0 → ∀ a : BitVec 7, exec (.entdaa a) s = ack { s.ops with i3cAddr := a.toNat } []
      ∧ exec (.setdasa 0x2C a) s = ack { s.ops with i3cAddr := a.toNat } [])
  ∧ exec .rstdaa s = ack { s.ops with i3cAddr := 0 } []
  ∧ exec .enec s = ack { s.ops with ibiEn := true } []
  ∧ exec .disec s = ack { s.ops with ibiEn := false } []
  ∧ (s.ops.i3cAddr ≠ 0 →
    (∀ c n, (c = Instr.getpid ∧ n = 6 ∨ c = Instr.getbcr ∧ n = 1 ∨ c = Instr.getdcr ∧ n = 1 ∨ c = Instr.getstatus ∧ n = 2 ∨ c = Instr.getmxds
      ∧ n = 2) →
      ∃ b : Bytes, b.length = n ∧ exec c s = .next { s with sent := [.i3cAck b], freeCnt := s.freeCnt + n })
    ∧ (∀ x : Byte, exec (.privateWrite [x]) s = ack { s.ops with i3cOff := x.toNat } [])
    ∧ ∀ n : Nat, s.ops.i3cOff + n ≤ 256 →
        exec (.privateRead n) s = ack s.ops (((padTo 256 s.ops.telemetry).drop s.ops.i3cOff).take n))

/-- O60 (R428; R506; R507). With PWR_OK high: EXTEST is taken while PERST_N is low, and otherwise acts as BYPASS; SAMPLE/PRELOAD shifts the pins out
(what they hold is a free value, log entry 3); BYPASS, IDCODE and the port's reset take effect (the model's choice for the reset: IDCODE). With the
clocks running, DEBUG_OBSERVE outside CONFIDENTIAL mode answers the register it names and DEBUG_DATA in DIAGNOSTIC mode the part it names (a row of
a bank, a register or row buffer of a bank unit; what the memory of an array holds is a free value, log entry 80), each setting its flag at first
use; where the mode does not allow them they act as BYPASS. -/
def Obligations.TestAccessPortAnswers : Prop :=
  ∀ (s : Machine.State), s.pins.pwrOk = true →
  let bypassed : Out := .next { s with sent := [], pins := { s.pins with tap := .bypass } }
  (s.pins.perstN = false → Completes .extest s fun t => t.pins = { s.pins with tap := .extest } ∧ (∃ v, t.sent = [.jtag v]) ∧ t.regs = s.regs
    ∧ SameContent s t)
  ∧ (s.pins.perstN = true → exec .extest s = bypassed)
  ∧ (Completes .samplePreload s fun t => t.pins = { s.pins with tap := .sample } ∧ (∃ v, t.sent = [.jtag v]) ∧ t.regs = s.regs ∧ SameContent s t)
  ∧ exec .bypass s = bypassed
  ∧ (Completes .idcode s fun t => t.pins = { s.pins with tap := .idcode } ∧ t.regs = s.regs ∧ SameContent s t
      ∧ ∃ w, t.sent = [.jtag w] ∧ bits w 12 16 = 0x3264 ∧ bits w 28 4 = 1 ∧ w % 2 = 1)
  ∧ exec .tapReset s = .next { s with sent := [], pins := { s.pins with tap := .idcode } }
  ∧ (running s = true →
    (∀ off d, (confidential s = false → Completes (.debugObserve off d) s fun t => t.sent = [.readData (leBytes 8 (readReg t 0 off))]
          ∧ t.pins = { s.pins with tap := .observe } ∧ flag t MTP_MODE_DEBUG_OBSERVE = true ∧ SameContent s t)
        ∧ (confidential s = true → exec (.debugObserve off d) s = bypassed))
    ∧ ∀ part n d, (diagnostic s = true → Completes (.debugData part n d) s fun t => t.pins = { s.pins with tap := .data }
          ∧ flag t MTP_MODE_DEBUG_DATA = true ∧ SameContent s t ∧ ∃ bs, t.sent = [.readData bs]
          ∧ (∀ a, part = .sram a ∨ part = .accumulators a ∨ part = .postUnit a → bs.length = n)
          ∧ (∀ u, (part = .rows u → bs = rowRead s (bankOf u) n)
              ∧ (part = .unitV u → bs = (vGet (unitOf s (bankOf u)) n).flatMap fun w => leBytes 2 w.toNat)
              ∧ (part = .unitS u → bs = leBytes 4 (mapGetD (unitOf s (bankOf u)).s n 0).toNat)
              ∧ (part = .unitRb u → bs = memReadN (unitOf s (bankOf u)).rb (1024 * n) 1024)))
        ∧ (diagnostic s = false → exec (.debugData part n d) s = bypassed))
end

