-- ==== Sys2Proof/Laws/Maps.lean ====
section
/-! SUPPORT. Laws of the sparse maps and of byte memory: what a read finds after a write, and that every operation keeps the canonical
form. -/
namespace Sys2Proof.Machine

/-! ### Reading a map -/

theorem mapGet_filter {α : Type} (m : Map α) (p : Nat → Bool) (k : Nat) :
    mapGet (m.filter (fun e => p e.1)) k = if p k then mapGet m k else none := by
  induction m with
  | nil => simp [mapGet]
  | cons a m ih =>
    simp only [mapGet] at ih ⊢
    by_cases hk : a.1 = k
    · subst hk
      by_cases hp : p a.1
      · simp [hp]
      · simp only [List.filter_cons, hp]
        simpa [hp] using ih
    · by_cases hp : p a.1 <;> simp_all

theorem mapGet_append {α : Type} (m n : Map α) (k : Nat) : mapGet (m ++ n) k = (mapGet m k).or (mapGet n k) := by
  simp [mapGet, List.find?_append, Option.map_or]

theorem mapGet_mapDel {α : Type} (m : Map α) (k j : Nat) : mapGet (mapDel m k) j = if j = k then none else mapGet m j := by
  have h := mapGet_filter m (fun i => i != k) j
  simp only [mapDel]
  rw [h]
  by_cases e : j = k <;> simp [e]

theorem mapGet_mapPut {α : Type} (m : Map α) (k : Nat) (v : α) (j : Nat) :
    mapGet (mapPut m k v) j = if j = k then some v else mapGet m j := by
  have lo := mapGet_filter m (fun i => decide (i < k)) j
  have hi := mapGet_filter m (fun i => decide (k < i)) j
  have c : mapPut m k v = m.filter (fun e => decide (e.1 < k)) ++ ([(k, v)] ++ m.filter (fun e => decide (k < e.1))) := rfl
  rw [c, mapGet_append, mapGet_append, lo, hi]
  have one : mapGet [(k, v)] j = if j = k then some v else none := by
    by_cases e : k = j
    · simp [mapGet, e]
    · have e' : ¬j = k := fun h => e h.symm
      simp [mapGet, e, e']
  rw [one]
  rcases Nat.lt_trichotomy j k with h | h | h
  · have e : ¬j = k := by omega
    have e' : ¬k < j := by omega
    simp [h, e, e']
  · subst h; simp
  · have e : ¬j = k := by omega
    have e' : ¬j < k := by omega
    simp [h, e, e']

@[simp] theorem mapGetD_nil {α : Type} (k : Nat) (d : α) : mapGetD ([] : Map α) k d = d := rfl

/-- What a read finds after a write. -/
theorem mapGetD_mapSet {α : Type} [DecidableEq α] (d : α) (m : Map α) (k : Nat) (v : α) (j : Nat) :
    mapGetD (mapSet d m k v) j d = if j = k then v else mapGetD m j d := by
  unfold mapSet
  by_cases hv : v = d
  · simp only [hv, if_true, mapGetD, mapGet_mapDel]
    by_cases e : j = k <;> simp [e]
  · simp only [hv, if_false, mapGetD, mapGet_mapPut]
    by_cases e : j = k <;> simp [e]

@[simp] theorem mapGetD_mapSet_same {α : Type} [DecidableEq α] (d : α) (m : Map α) (k : Nat) (v : α) :
    mapGetD (mapSet d m k v) k d = v := by simp [mapGetD_mapSet]

theorem mapGetD_mapSet_ne {α : Type} [DecidableEq α] (d : α) (m : Map α) (k : Nat) (v : α) {j : Nat} (h : j ≠ k) :
    mapGetD (mapSet d m k v) j d = mapGetD m j d := by simp [mapGetD_mapSet, h]

/-! ### Rising keys -/

theorem mapSorted_iff {α : Type} (m : Map α) : mapSorted m = true ↔ m.Pairwise (fun a b => a.1 < b.1) := by
  induction m with
  | nil => simp [mapSorted]
  | cons a m ih =>
    cases m with
    | nil => simp [mapSorted]
    | cons b r =>
      simp only [mapSorted, Bool.and_eq_true, decide_eq_true_eq, ih, List.pairwise_cons]
      constructor
      · rintro ⟨hab, hb, hr⟩
        refine ⟨fun c hc => ?_, hb, hr⟩
        rcases List.mem_cons.1 hc with rfl | hc
        · exact hab
        · exact Nat.lt_trans hab (hb c hc)
      · rintro ⟨ha, hb, hr⟩
        exact ⟨ha b (List.mem_cons_self ..), hb, hr⟩

theorem mapSorted_filter {α : Type} (m : Map α) (p : Nat × α → Bool) (h : mapSorted m = true) : mapSorted (m.filter p) = true := by
  rw [mapSorted_iff] at h ⊢
  exact h.filter p

theorem mapSorted_mapPut {α : Type} (m : Map α) (k : Nat) (v : α) (h : mapSorted m = true) : mapSorted (mapPut m k v) = true := by
  rw [mapSorted_iff] at h ⊢
  unfold mapPut
  refine List.pairwise_append.2 ⟨h.filter _, List.pairwise_cons.2 ⟨?_, h.filter _⟩, ?_⟩
  · intro b hb
    simpa using (List.mem_filter.1 hb).2
  · intro a ha b hb
    have h1 : a.1 < k := by simpa using (List.mem_filter.1 ha).2
    rcases List.mem_cons.1 hb with rfl | hb
    · exact h1
    · have h2 : k < b.1 := by simpa using (List.mem_filter.1 hb).2
      omega

/-- A write keeps the keys rising. -/
theorem mapSorted_mapSet {α : Type} [DecidableEq α] (d : α) (m : Map α) (k : Nat) (v : α) (h : mapSorted m = true) :
    mapSorted (mapSet d m k v) = true := by
  unfold mapSet
  split
  · exact mapSorted_filter _ _ h
  · exact mapSorted_mapPut _ _ _ h

/-! ### Byte memory -/

theorem memCells_bounds (a : Nat) (bs : Bytes) : ∀ c ∈ memCells a bs, a ≤ c.1 ∧ c.1 < a + bs.length ∧ c.2 ≠ memUnlisted := by
  induction bs generalizing a with
  | nil => simp [memCells]
  | cons b bs ih =>
    intro c hc
    simp only [memCells] at hc
    split at hc
    · have h := ih (a + 1) c hc
      simp only [List.length_cons]
      exact ⟨by omega, by omega, h.2.2⟩
    · rename_i hb
      rcases List.mem_cons.1 hc with rfl | hc
      · simp [hb]
      · have h := ih (a + 1) c hc
        simp only [List.length_cons]
        exact ⟨by omega, by omega, h.2.2⟩

theorem memCells_sorted (a : Nat) (bs : Bytes) : (memCells a bs).Pairwise (fun x y => x.1 < y.1) := by
  induction bs generalizing a with
  | nil => simp [memCells]
  | cons b bs ih =>
    simp only [memCells]
    split
    · exact ih _
    · refine List.pairwise_cons.2 ⟨fun c hc => ?_, ih _⟩
      have := memCells_bounds (a + 1) bs c hc
      simp only; omega

/-- A write keeps the canonical form. -/
theorem memWrite_wf (m : Memory) (a : Nat) (bs : Bytes) (h : m.wf) : (memWrite m a bs).wf := by
  obtain ⟨hs, hz⟩ := h
  rw [mapSorted_iff] at hs
  rw [List.all_eq_true] at hz
  refine ⟨?_, ?_⟩
  · rw [mapSorted_iff]
    unfold memWrite
    refine List.pairwise_append.2 ⟨List.pairwise_append.2 ⟨hs.filter _, memCells_sorted a bs, ?_⟩, hs.filter _, ?_⟩
    · intro x hx y hy
      have h1 : x.1 < a := by simpa using (List.mem_filter.1 hx).2
      have h2 := memCells_bounds a bs y hy
      omega
    · intro x hx y hy
      have h2 : a + bs.length ≤ y.1 := by simpa using (List.mem_filter.1 hy).2
      rcases List.mem_append.1 hx with hx | hx
      · have h1 : x.1 < a := by simpa using (List.mem_filter.1 hx).2
        omega
      · have h1 := memCells_bounds a bs x hx
        omega
  · rw [List.all_eq_true]
    intro c hc
    unfold memWrite at hc
    rcases List.mem_append.1 hc with hc | hc
    · rcases List.mem_append.1 hc with hc | hc
      · exact hz c (List.mem_filter.1 hc).1
      · simpa using (memCells_bounds a bs c hc).2.2
    · exact hz c (List.mem_filter.1 hc).1

/-- Zeroing keeps the canonical form. -/
theorem memZero_wf (m : Memory) (a n : Nat) (h : m.wf) : (memZero m a n).wf := by
  obtain ⟨hs, hz⟩ := h
  refine ⟨mapSorted_filter _ _ hs, ?_⟩
  rw [List.all_eq_true] at hz ⊢
  intro c hc
  exact hz c (List.mem_filter.1 hc).1

theorem memRead_eq (m : Memory) (a : Nat) : memRead m a = (mapGet m a).getD memUnlisted := rfl

theorem mapGet_memCells (a : Nat) (bs : Bytes) (i : Nat) :
    (mapGet (memCells a bs) (a + i)).getD memUnlisted = bs.getD i memUnlisted := by
  induction bs generalizing a i with
  | nil => simp [memCells, mapGet]
  | cons b bs ih =>
    cases i with
    | zero =>
      simp only [memCells]
      split
      · rename_i hb
        have : mapGet (memCells (a + 1) bs) a = none := by
          simp only [mapGet, Option.map_eq_none_iff, List.find?_eq_none]
          intro c hc
          have := memCells_bounds (a + 1) bs c hc
          simp; omega
        simp [this, hb]
      · simp [mapGet]
    | succ i =>
      have e : a + (i + 1) = (a + 1) + i := by omega
      simp only [memCells]
      split
      · rw [e, ih]; simp
      · have ne : ¬a = a + 1 + i := by omega
        have := ih (a + 1) i
        rw [e]
        simp only [mapGet] at this ⊢
        simp [ne, this]

theorem mapGet_memCells_out (a : Nat) (bs : Bytes) (j : Nat) (h : j < a ∨ a + bs.length ≤ j) : mapGet (memCells a bs) j = none := by
  simp only [mapGet, Option.map_eq_none_iff, List.find?_eq_none]
  intro c hc
  have := memCells_bounds a bs c hc
  simp; omega

/-- A byte inside a write reads as written. -/
theorem memRead_memWrite_in (m : Memory) (a : Nat) (bs : Bytes) (i : Nat) (h : i < bs.length) :
    memRead (memWrite m a bs) (a + i) = bs.getD i memUnlisted := by
  have lo := mapGet_filter m (fun j => decide (j < a)) (a + i)
  have hi := mapGet_filter m (fun j => decide (a + bs.length ≤ j)) (a + i)
  have e1 : ¬a + i < a := by omega
  have e2 : ¬a + bs.length ≤ a + i := by omega
  have c : memWrite m a bs = (m.filter (fun e => decide (e.1 < a)) ++ memCells a bs)
      ++ m.filter (fun e => decide (a + bs.length ≤ e.1)) := rfl
  rw [memRead_eq, c, mapGet_append, mapGet_append, lo, hi]
  simp only [e1, e2, decide_false]
  simpa using mapGet_memCells a bs i

/-- A byte outside a write reads as before. -/
theorem memRead_memWrite_out (m : Memory) (a : Nat) (bs : Bytes) (j : Nat) (h : j < a ∨ a + bs.length ≤ j) :
    memRead (memWrite m a bs) j = memRead m j := by
  have lo := mapGet_filter m (fun j => decide (j < a)) j
  have hi := mapGet_filter m (fun j => decide (a + bs.length ≤ j)) j
  have c : memWrite m a bs = (m.filter (fun e => decide (e.1 < a)) ++ memCells a bs)
      ++ m.filter (fun e => decide (a + bs.length ≤ e.1)) := rfl
  rw [memRead_eq, memRead_eq, c, mapGet_append, mapGet_append, lo, hi, mapGet_memCells_out a bs j h]
  rcases h with h | h
  · have e : ¬a + bs.length ≤ j := by omega
    simp [h, e]
  · have e : ¬j < a := by omega
    simp [h, e]

/-- A zeroed byte reads as 0, every other byte as before. -/
theorem memRead_memZero (m : Memory) (a n j : Nat) :
    memRead (memZero m a n) j = if a ≤ j ∧ j < a + n then memUnlisted else memRead m j := by
  have h := mapGet_filter m (fun j => decide (j < a) || decide (a + n ≤ j)) j
  have c : memZero m a n = m.filter (fun e => decide (e.1 < a) || decide (a + n ≤ e.1)) := rfl
  rw [memRead_eq, memRead_eq, c, h]
  by_cases e : a ≤ j ∧ j < a + n
  · have e1 : ¬j < a := by omega
    have e2 : ¬a + n ≤ j := by omega
    simp [e, e1, e2]
  · have e1 : j < a ∨ a + n ≤ j := by omega
    simp [e, e1]

end Sys2Proof.Machine
end

