-- ==== Sys2Proof/Laws/State.lean ====
section
/-! SUPPORT. Laws of the state's updates: each update leaves every other field as it was, and what its own field then reads. -/
namespace Sys2Proof.Machine

variable (s : State)

/-! ### `wr` -/

@[simp] theorem wr_pending (fn : Nat) (f : Fld) (v : Nat) : (wr s fn f v).pending = s.pending := rfl
@[simp] theorem wr_sent (fn : Nat) (f : Fld) (v : Nat) : (wr s fn f v).sent = s.sent := rfl
@[simp] theorem wr_shadow (fn : Nat) (f : Fld) (v : Nat) : (wr s fn f v).shadow = s.shadow := rfl
@[simp] theorem wr_freeCnt (fn : Nat) (f : Fld) (v : Nat) : (wr s fn f v).freeCnt = s.freeCnt := rfl
@[simp] theorem wr_frame (fn : Nat) (f : Fld) (v : Nat) : (wr s fn f v).frame = s.frame := rfl
@[simp] theorem wr_entries (fn : Nat) (f : Fld) (v : Nat) : (wr s fn f v).entries = s.entries := rfl
@[simp] theorem wr_ring (fn : Nat) (f : Fld) (v : Nat) : (wr s fn f v).ring = s.ring := rfl
@[simp] theorem wr_plan (fn : Nat) (f : Fld) (v : Nat) : (wr s fn f v).plan = s.plan := rfl
@[simp] theorem wr_done (fn : Nat) (f : Fld) (v : Nat) : (wr s fn f v).done = s.done := rfl
@[simp] theorem wr_fences (fn : Nat) (f : Fld) (v : Nat) : (wr s fn f v).fences = s.fences := rfl
@[simp] theorem wr_ended (fn : Nat) (f : Fld) (v : Nat) : (wr s fn f v).ended = s.ended := rfl
@[simp] theorem wr_wrapQ (fn : Nat) (f : Fld) (v : Nat) : (wr s fn f v).wrapQ = s.wrapQ := rfl
@[simp] theorem wr_fns (fn : Nat) (f : Fld) (v : Nat) : (wr s fn f v).fns = s.fns := rfl
@[simp] theorem wr_erl (fn : Nat) (f : Fld) (v : Nat) : (wr s fn f v).erl = s.erl := rfl
@[simp] theorem wr_objs (fn : Nat) (f : Fld) (v : Nat) : (wr s fn f v).objs = s.objs := rfl
@[simp] theorem wr_xlat (fn : Nat) (f : Fld) (v : Nat) : (wr s fn f v).xlat = s.xlat := rfl
@[simp] theorem wr_grans (fn : Nat) (f : Fld) (v : Nat) : (wr s fn f v).grans = s.grans := rfl
@[simp] theorem wr_remap (fn : Nat) (f : Fld) (v : Nat) : (wr s fn f v).remap = s.remap := rfl
@[simp] theorem wr_strikes (fn : Nat) (f : Fld) (v : Nat) : (wr s fn f v).strikes = s.strikes := rfl
@[simp] theorem wr_migs (fn : Nat) (f : Fld) (v : Nat) : (wr s fn f v).migs = s.migs := rfl
@[simp] theorem wr_mem (fn : Nat) (f : Fld) (v : Nat) : (wr s fn f v).mem = s.mem := rfl
@[simp] theorem wr_board (fn : Nat) (f : Fld) (v : Nat) : (wr s fn f v).board = s.board := rfl
@[simp] theorem wr_boardUsed (fn : Nat) (f : Fld) (v : Nat) : (wr s fn f v).boardUsed = s.boardUsed := rfl
@[simp] theorem wr_boardFilling (fn : Nat) (f : Fld) (v : Nat) : (wr s fn f v).boardFilling = s.boardFilling := rfl
@[simp] theorem wr_boardRetired (fn : Nat) (f : Fld) (v : Nat) : (wr s fn f v).boardRetired = s.boardRetired := rfl
@[simp] theorem wr_boardRetiring (fn : Nat) (f : Fld) (v : Nat) : (wr s fn f v).boardRetiring = s.boardRetiring := rfl
@[simp] theorem wr_reels (fn : Nat) (f : Fld) (v : Nat) : (wr s fn f v).reels = s.reels := rfl
@[simp] theorem wr_acts (fn : Nat) (f : Fld) (v : Nat) : (wr s fn f v).acts = s.acts := rfl
@[simp] theorem wr_resid (fn : Nat) (f : Fld) (v : Nat) : (wr s fn f v).resid = s.resid := rfl
@[simp] theorem wr_parts (fn : Nat) (f : Fld) (v : Nat) : (wr s fn f v).parts = s.parts := rfl
@[simp] theorem wr_routes (fn : Nat) (f : Fld) (v : Nat) : (wr s fn f v).routes = s.routes := rfl
@[simp] theorem wr_logits (fn : Nat) (f : Fld) (v : Nat) : (wr s fn f v).logits = s.logits := rfl
@[simp] theorem wr_streamBuf (fn : Nat) (f : Fld) (v : Nat) : (wr s fn f v).streamBuf = s.streamBuf := rfl
@[simp] theorem wr_work (fn : Nat) (f : Fld) (v : Nat) : (wr s fn f v).work = s.work := rfl
@[simp] theorem wr_runs (fn : Nat) (f : Fld) (v : Nat) : (wr s fn f v).runs = s.runs := rfl
@[simp] theorem wr_units (fn : Nat) (f : Fld) (v : Nat) : (wr s fn f v).units = s.units := rfl
@[simp] theorem wr_staging (fn : Nat) (f : Fld) (v : Nat) : (wr s fn f v).staging = s.staging := rfl
@[simp] theorem wr_colls (fn : Nat) (f : Fld) (v : Nat) : (wr s fn f v).colls = s.colls := rfl
@[simp] theorem wr_refPos (fn : Nat) (f : Fld) (v : Nat) : (wr s fn f v).refPos = s.refPos := rfl
@[simp] theorem wr_actCnt (fn : Nat) (f : Fld) (v : Nat) : (wr s fn f v).actCnt = s.actCnt := rfl
@[simp] theorem wr_maskAreas (fn : Nat) (f : Fld) (v : Nat) : (wr s fn f v).maskAreas = s.maskAreas := rfl
@[simp] theorem wr_tblSlots (fn : Nat) (f : Fld) (v : Nat) : (wr s fn f v).tblSlots = s.tblSlots := rfl
@[simp] theorem wr_tblLoads (fn : Nat) (f : Fld) (v : Nat) : (wr s fn f v).tblLoads = s.tblLoads := rfl
@[simp] theorem wr_xqLatched (fn : Nat) (f : Fld) (v : Nat) : (wr s fn f v).xqLatched = s.xqLatched := rfl
@[simp] theorem wr_rrNext (fn : Nat) (f : Fld) (v : Nat) : (wr s fn f v).rrNext = s.rrNext := rfl
@[simp] theorem wr_xfers (fn : Nat) (f : Fld) (v : Nat) : (wr s fn f v).xfers = s.xfers := rfl
@[simp] theorem wr_inbound (fn : Nat) (f : Fld) (v : Nat) : (wr s fn f v).inbound = s.inbound := rfl
@[simp] theorem wr_switchDue (fn : Nat) (f : Fld) (v : Nat) : (wr s fn f v).switchDue = s.switchDue := rfl
@[simp] theorem wr_apertureQ (fn : Nat) (f : Fld) (v : Nat) : (wr s fn f v).apertureQ = s.apertureQ := rfl
@[simp] theorem wr_flash (fn : Nat) (f : Fld) (v : Nat) : (wr s fn f v).flash = s.flash := rfl
@[simp] theorem wr_portSt (fn : Nat) (f : Fld) (v : Nat) : (wr s fn f v).portSt = s.portSt := rfl
@[simp] theorem wr_trust (fn : Nat) (f : Fld) (v : Nat) : (wr s fn f v).trust = s.trust := rfl
@[simp] theorem wr_cfg (fn : Nat) (f : Fld) (v : Nat) : (wr s fn f v).cfg = s.cfg := rfl
@[simp] theorem wr_ops (fn : Nat) (f : Fld) (v : Nat) : (wr s fn f v).ops = s.ops := rfl
@[simp] theorem wr_l0p (fn : Nat) (f : Fld) (v : Nat) : (wr s fn f v).l0p = s.l0p := rfl
@[simp] theorem wr_pins (fn : Nat) (f : Fld) (v : Nat) : (wr s fn f v).pins = s.pins := rfl

/-! ### `send` -/

@[simp] theorem send_pending (m : Msg) : (send s m).pending = s.pending := rfl
@[simp] theorem send_regs (m : Msg) : (send s m).regs = s.regs := rfl
@[simp] theorem send_shadow (m : Msg) : (send s m).shadow = s.shadow := rfl
@[simp] theorem send_freeCnt (m : Msg) : (send s m).freeCnt = s.freeCnt := rfl
@[simp] theorem send_frame (m : Msg) : (send s m).frame = s.frame := rfl
@[simp] theorem send_entries (m : Msg) : (send s m).entries = s.entries := rfl
@[simp] theorem send_ring (m : Msg) : (send s m).ring = s.ring := rfl
@[simp] theorem send_plan (m : Msg) : (send s m).plan = s.plan := rfl
@[simp] theorem send_done (m : Msg) : (send s m).done = s.done := rfl
@[simp] theorem send_fences (m : Msg) : (send s m).fences = s.fences := rfl
@[simp] theorem send_ended (m : Msg) : (send s m).ended = s.ended := rfl
@[simp] theorem send_wrapQ (m : Msg) : (send s m).wrapQ = s.wrapQ := rfl
@[simp] theorem send_fns (m : Msg) : (send s m).fns = s.fns := rfl
@[simp] theorem send_erl (m : Msg) : (send s m).erl = s.erl := rfl
@[simp] theorem send_objs (m : Msg) : (send s m).objs = s.objs := rfl
@[simp] theorem send_xlat (m : Msg) : (send s m).xlat = s.xlat := rfl
@[simp] theorem send_grans (m : Msg) : (send s m).grans = s.grans := rfl
@[simp] theorem send_remap (m : Msg) : (send s m).remap = s.remap := rfl
@[simp] theorem send_strikes (m : Msg) : (send s m).strikes = s.strikes := rfl
@[simp] theorem send_migs (m : Msg) : (send s m).migs = s.migs := rfl
@[simp] theorem send_mem (m : Msg) : (send s m).mem = s.mem := rfl
@[simp] theorem send_board (m : Msg) : (send s m).board = s.board := rfl
@[simp] theorem send_boardUsed (m : Msg) : (send s m).boardUsed = s.boardUsed := rfl
@[simp] theorem send_boardFilling (m : Msg) : (send s m).boardFilling = s.boardFilling := rfl
@[simp] theorem send_boardRetired (m : Msg) : (send s m).boardRetired = s.boardRetired := rfl
@[simp] theorem send_boardRetiring (m : Msg) : (send s m).boardRetiring = s.boardRetiring := rfl
@[simp] theorem send_reels (m : Msg) : (send s m).reels = s.reels := rfl
@[simp] theorem send_acts (m : Msg) : (send s m).acts = s.acts := rfl
@[simp] theorem send_resid (m : Msg) : (send s m).resid = s.resid := rfl
@[simp] theorem send_parts (m : Msg) : (send s m).parts = s.parts := rfl
@[simp] theorem send_routes (m : Msg) : (send s m).routes = s.routes := rfl
@[simp] theorem send_logits (m : Msg) : (send s m).logits = s.logits := rfl
@[simp] theorem send_streamBuf (m : Msg) : (send s m).streamBuf = s.streamBuf := rfl
@[simp] theorem send_work (m : Msg) : (send s m).work = s.work := rfl
@[simp] theorem send_runs (m : Msg) : (send s m).runs = s.runs := rfl
@[simp] theorem send_units (m : Msg) : (send s m).units = s.units := rfl
@[simp] theorem send_staging (m : Msg) : (send s m).staging = s.staging := rfl
@[simp] theorem send_colls (m : Msg) : (send s m).colls = s.colls := rfl
@[simp] theorem send_refPos (m : Msg) : (send s m).refPos = s.refPos := rfl
@[simp] theorem send_actCnt (m : Msg) : (send s m).actCnt = s.actCnt := rfl
@[simp] theorem send_maskAreas (m : Msg) : (send s m).maskAreas = s.maskAreas := rfl
@[simp] theorem send_tblSlots (m : Msg) : (send s m).tblSlots = s.tblSlots := rfl
@[simp] theorem send_tblLoads (m : Msg) : (send s m).tblLoads = s.tblLoads := rfl
@[simp] theorem send_xqLatched (m : Msg) : (send s m).xqLatched = s.xqLatched := rfl
@[simp] theorem send_rrNext (m : Msg) : (send s m).rrNext = s.rrNext := rfl
@[simp] theorem send_xfers (m : Msg) : (send s m).xfers = s.xfers := rfl
@[simp] theorem send_inbound (m : Msg) : (send s m).inbound = s.inbound := rfl
@[simp] theorem send_switchDue (m : Msg) : (send s m).switchDue = s.switchDue := rfl
@[simp] theorem send_apertureQ (m : Msg) : (send s m).apertureQ = s.apertureQ := rfl
@[simp] theorem send_flash (m : Msg) : (send s m).flash = s.flash := rfl
@[simp] theorem send_portSt (m : Msg) : (send s m).portSt = s.portSt := rfl
@[simp] theorem send_trust (m : Msg) : (send s m).trust = s.trust := rfl
@[simp] theorem send_cfg (m : Msg) : (send s m).cfg = s.cfg := rfl
@[simp] theorem send_ops (m : Msg) : (send s m).ops = s.ops := rfl
@[simp] theorem send_l0p (m : Msg) : (send s m).l0p = s.l0p := rfl
@[simp] theorem send_pins (m : Msg) : (send s m).pins = s.pins := rfl

/-! ### `setFn` -/

@[simp] theorem setFn_pending (fn : Nat) (x : FnSt) : (setFn s fn x).pending = s.pending := rfl
@[simp] theorem setFn_sent (fn : Nat) (x : FnSt) : (setFn s fn x).sent = s.sent := rfl
@[simp] theorem setFn_regs (fn : Nat) (x : FnSt) : (setFn s fn x).regs = s.regs := rfl
@[simp] theorem setFn_shadow (fn : Nat) (x : FnSt) : (setFn s fn x).shadow = s.shadow := rfl
@[simp] theorem setFn_freeCnt (fn : Nat) (x : FnSt) : (setFn s fn x).freeCnt = s.freeCnt := rfl
@[simp] theorem setFn_frame (fn : Nat) (x : FnSt) : (setFn s fn x).frame = s.frame := rfl
@[simp] theorem setFn_entries (fn : Nat) (x : FnSt) : (setFn s fn x).entries = s.entries := rfl
@[simp] theorem setFn_ring (fn : Nat) (x : FnSt) : (setFn s fn x).ring = s.ring := rfl
@[simp] theorem setFn_plan (fn : Nat) (x : FnSt) : (setFn s fn x).plan = s.plan := rfl
@[simp] theorem setFn_done (fn : Nat) (x : FnSt) : (setFn s fn x).done = s.done := rfl
@[simp] theorem setFn_fences (fn : Nat) (x : FnSt) : (setFn s fn x).fences = s.fences := rfl
@[simp] theorem setFn_ended (fn : Nat) (x : FnSt) : (setFn s fn x).ended = s.ended := rfl
@[simp] theorem setFn_wrapQ (fn : Nat) (x : FnSt) : (setFn s fn x).wrapQ = s.wrapQ := rfl
@[simp] theorem setFn_erl (fn : Nat) (x : FnSt) : (setFn s fn x).erl = s.erl := rfl
@[simp] theorem setFn_objs (fn : Nat) (x : FnSt) : (setFn s fn x).objs = s.objs := rfl
@[simp] theorem setFn_xlat (fn : Nat) (x : FnSt) : (setFn s fn x).xlat = s.xlat := rfl
@[simp] theorem setFn_grans (fn : Nat) (x : FnSt) : (setFn s fn x).grans = s.grans := rfl
@[simp] theorem setFn_remap (fn : Nat) (x : FnSt) : (setFn s fn x).remap = s.remap := rfl
@[simp] theorem setFn_strikes (fn : Nat) (x : FnSt) : (setFn s fn x).strikes = s.strikes := rfl
@[simp] theorem setFn_migs (fn : Nat) (x : FnSt) : (setFn s fn x).migs = s.migs := rfl
@[simp] theorem setFn_mem (fn : Nat) (x : FnSt) : (setFn s fn x).mem = s.mem := rfl
@[simp] theorem setFn_board (fn : Nat) (x : FnSt) : (setFn s fn x).board = s.board := rfl
@[simp] theorem setFn_boardUsed (fn : Nat) (x : FnSt) : (setFn s fn x).boardUsed = s.boardUsed := rfl
@[simp] theorem setFn_boardFilling (fn : Nat) (x : FnSt) : (setFn s fn x).boardFilling = s.boardFilling := rfl
@[simp] theorem setFn_boardRetired (fn : Nat) (x : FnSt) : (setFn s fn x).boardRetired = s.boardRetired := rfl
@[simp] theorem setFn_boardRetiring (fn : Nat) (x : FnSt) : (setFn s fn x).boardRetiring = s.boardRetiring := rfl
@[simp] theorem setFn_reels (fn : Nat) (x : FnSt) : (setFn s fn x).reels = s.reels := rfl
@[simp] theorem setFn_acts (fn : Nat) (x : FnSt) : (setFn s fn x).acts = s.acts := rfl
@[simp] theorem setFn_resid (fn : Nat) (x : FnSt) : (setFn s fn x).resid = s.resid := rfl
@[simp] theorem setFn_parts (fn : Nat) (x : FnSt) : (setFn s fn x).parts = s.parts := rfl
@[simp] theorem setFn_routes (fn : Nat) (x : FnSt) : (setFn s fn x).routes = s.routes := rfl
@[simp] theorem setFn_logits (fn : Nat) (x : FnSt) : (setFn s fn x).logits = s.logits := rfl
@[simp] theorem setFn_streamBuf (fn : Nat) (x : FnSt) : (setFn s fn x).streamBuf = s.streamBuf := rfl
@[simp] theorem setFn_work (fn : Nat) (x : FnSt) : (setFn s fn x).work = s.work := rfl
@[simp] theorem setFn_runs (fn : Nat) (x : FnSt) : (setFn s fn x).runs = s.runs := rfl
@[simp] theorem setFn_units (fn : Nat) (x : FnSt) : (setFn s fn x).units = s.units := rfl
@[simp] theorem setFn_staging (fn : Nat) (x : FnSt) : (setFn s fn x).staging = s.staging := rfl
@[simp] theorem setFn_colls (fn : Nat) (x : FnSt) : (setFn s fn x).colls = s.colls := rfl
@[simp] theorem setFn_refPos (fn : Nat) (x : FnSt) : (setFn s fn x).refPos = s.refPos := rfl
@[simp] theorem setFn_actCnt (fn : Nat) (x : FnSt) : (setFn s fn x).actCnt = s.actCnt := rfl
@[simp] theorem setFn_maskAreas (fn : Nat) (x : FnSt) : (setFn s fn x).maskAreas = s.maskAreas := rfl
@[simp] theorem setFn_tblSlots (fn : Nat) (x : FnSt) : (setFn s fn x).tblSlots = s.tblSlots := rfl
@[simp] theorem setFn_tblLoads (fn : Nat) (x : FnSt) : (setFn s fn x).tblLoads = s.tblLoads := rfl
@[simp] theorem setFn_xqLatched (fn : Nat) (x : FnSt) : (setFn s fn x).xqLatched = s.xqLatched := rfl
@[simp] theorem setFn_rrNext (fn : Nat) (x : FnSt) : (setFn s fn x).rrNext = s.rrNext := rfl
@[simp] theorem setFn_xfers (fn : Nat) (x : FnSt) : (setFn s fn x).xfers = s.xfers := rfl
@[simp] theorem setFn_inbound (fn : Nat) (x : FnSt) : (setFn s fn x).inbound = s.inbound := rfl
@[simp] theorem setFn_switchDue (fn : Nat) (x : FnSt) : (setFn s fn x).switchDue = s.switchDue := rfl
@[simp] theorem setFn_apertureQ (fn : Nat) (x : FnSt) : (setFn s fn x).apertureQ = s.apertureQ := rfl
@[simp] theorem setFn_flash (fn : Nat) (x : FnSt) : (setFn s fn x).flash = s.flash := rfl
@[simp] theorem setFn_portSt (fn : Nat) (x : FnSt) : (setFn s fn x).portSt = s.portSt := rfl
@[simp] theorem setFn_trust (fn : Nat) (x : FnSt) : (setFn s fn x).trust = s.trust := rfl
@[simp] theorem setFn_cfg (fn : Nat) (x : FnSt) : (setFn s fn x).cfg = s.cfg := rfl
@[simp] theorem setFn_ops (fn : Nat) (x : FnSt) : (setFn s fn x).ops = s.ops := rfl
@[simp] theorem setFn_l0p (fn : Nat) (x : FnSt) : (setFn s fn x).l0p = s.l0p := rfl
@[simp] theorem setFn_pins (fn : Nat) (x : FnSt) : (setFn s fn x).pins = s.pins := rfl

/-! ### `setFrame` -/

@[simp] theorem setFrame_pending (g : FrameSt → FrameSt) : (setFrame s g).pending = s.pending := rfl
@[simp] theorem setFrame_sent (g : FrameSt → FrameSt) : (setFrame s g).sent = s.sent := rfl
@[simp] theorem setFrame_regs (g : FrameSt → FrameSt) : (setFrame s g).regs = s.regs := rfl
@[simp] theorem setFrame_shadow (g : FrameSt → FrameSt) : (setFrame s g).shadow = s.shadow := rfl
@[simp] theorem setFrame_freeCnt (g : FrameSt → FrameSt) : (setFrame s g).freeCnt = s.freeCnt := rfl
@[simp] theorem setFrame_entries (g : FrameSt → FrameSt) : (setFrame s g).entries = s.entries := rfl
@[simp] theorem setFrame_ring (g : FrameSt → FrameSt) : (setFrame s g).ring = s.ring := rfl
@[simp] theorem setFrame_plan (g : FrameSt → FrameSt) : (setFrame s g).plan = s.plan := rfl
@[simp] theorem setFrame_done (g : FrameSt → FrameSt) : (setFrame s g).done = s.done := rfl
@[simp] theorem setFrame_fences (g : FrameSt → FrameSt) : (setFrame s g).fences = s.fences := rfl
@[simp] theorem setFrame_ended (g : FrameSt → FrameSt) : (setFrame s g).ended = s.ended := rfl
@[simp] theorem setFrame_wrapQ (g : FrameSt → FrameSt) : (setFrame s g).wrapQ = s.wrapQ := rfl
@[simp] theorem setFrame_fns (g : FrameSt → FrameSt) : (setFrame s g).fns = s.fns := rfl
@[simp] theorem setFrame_erl (g : FrameSt → FrameSt) : (setFrame s g).erl = s.erl := rfl
@[simp] theorem setFrame_objs (g : FrameSt → FrameSt) : (setFrame s g).objs = s.objs := rfl
@[simp] theorem setFrame_xlat (g : FrameSt → FrameSt) : (setFrame s g).xlat = s.xlat := rfl
@[simp] theorem setFrame_grans (g : FrameSt → FrameSt) : (setFrame s g).grans = s.grans := rfl
@[simp] theorem setFrame_remap (g : FrameSt → FrameSt) : (setFrame s g).remap = s.remap := rfl
@[simp] theorem setFrame_strikes (g : FrameSt → FrameSt) : (setFrame s g).strikes = s.strikes := rfl
@[simp] theorem setFrame_migs (g : FrameSt → FrameSt) : (setFrame s g).migs = s.migs := rfl
@[simp] theorem setFrame_mem (g : FrameSt → FrameSt) : (setFrame s g).mem = s.mem := rfl
@[simp] theorem setFrame_board (g : FrameSt → FrameSt) : (setFrame s g).board = s.board := rfl
@[simp] theorem setFrame_boardUsed (g : FrameSt → FrameSt) : (setFrame s g).boardUsed = s.boardUsed := rfl
@[simp] theorem setFrame_boardFilling (g : FrameSt → FrameSt) : (setFrame s g).boardFilling = s.boardFilling := rfl
@[simp] theorem setFrame_boardRetired (g : FrameSt → FrameSt) : (setFrame s g).boardRetired = s.boardRetired := rfl
@[simp] theorem setFrame_boardRetiring (g : FrameSt → FrameSt) : (setFrame s g).boardRetiring = s.boardRetiring := rfl
@[simp] theorem setFrame_reels (g : FrameSt → FrameSt) : (setFrame s g).reels = s.reels := rfl
@[simp] theorem setFrame_acts (g : FrameSt → FrameSt) : (setFrame s g).acts = s.acts := rfl
@[simp] theorem setFrame_resid (g : FrameSt → FrameSt) : (setFrame s g).resid = s.resid := rfl
@[simp] theorem setFrame_parts (g : FrameSt → FrameSt) : (setFrame s g).parts = s.parts := rfl
@[simp] theorem setFrame_routes (g : FrameSt → FrameSt) : (setFrame s g).routes = s.routes := rfl
@[simp] theorem setFrame_logits (g : FrameSt → FrameSt) : (setFrame s g).logits = s.logits := rfl
@[simp] theorem setFrame_streamBuf (g : FrameSt → FrameSt) : (setFrame s g).streamBuf = s.streamBuf := rfl
@[simp] theorem setFrame_work (g : FrameSt → FrameSt) : (setFrame s g).work = s.work := rfl
@[simp] theorem setFrame_runs (g : FrameSt → FrameSt) : (setFrame s g).runs = s.runs := rfl
@[simp] theorem setFrame_units (g : FrameSt → FrameSt) : (setFrame s g).units = s.units := rfl
@[simp] theorem setFrame_staging (g : FrameSt → FrameSt) : (setFrame s g).staging = s.staging := rfl
@[simp] theorem setFrame_colls (g : FrameSt → FrameSt) : (setFrame s g).colls = s.colls := rfl
@[simp] theorem setFrame_refPos (g : FrameSt → FrameSt) : (setFrame s g).refPos = s.refPos := rfl
@[simp] theorem setFrame_actCnt (g : FrameSt → FrameSt) : (setFrame s g).actCnt = s.actCnt := rfl
@[simp] theorem setFrame_maskAreas (g : FrameSt → FrameSt) : (setFrame s g).maskAreas = s.maskAreas := rfl
@[simp] theorem setFrame_tblSlots (g : FrameSt → FrameSt) : (setFrame s g).tblSlots = s.tblSlots := rfl
@[simp] theorem setFrame_tblLoads (g : FrameSt → FrameSt) : (setFrame s g).tblLoads = s.tblLoads := rfl
@[simp] theorem setFrame_xqLatched (g : FrameSt → FrameSt) : (setFrame s g).xqLatched = s.xqLatched := rfl
@[simp] theorem setFrame_rrNext (g : FrameSt → FrameSt) : (setFrame s g).rrNext = s.rrNext := rfl
@[simp] theorem setFrame_xfers (g : FrameSt → FrameSt) : (setFrame s g).xfers = s.xfers := rfl
@[simp] theorem setFrame_inbound (g : FrameSt → FrameSt) : (setFrame s g).inbound = s.inbound := rfl
@[simp] theorem setFrame_switchDue (g : FrameSt → FrameSt) : (setFrame s g).switchDue = s.switchDue := rfl
@[simp] theorem setFrame_apertureQ (g : FrameSt → FrameSt) : (setFrame s g).apertureQ = s.apertureQ := rfl
@[simp] theorem setFrame_flash (g : FrameSt → FrameSt) : (setFrame s g).flash = s.flash := rfl
@[simp] theorem setFrame_portSt (g : FrameSt → FrameSt) : (setFrame s g).portSt = s.portSt := rfl
@[simp] theorem setFrame_trust (g : FrameSt → FrameSt) : (setFrame s g).trust = s.trust := rfl
@[simp] theorem setFrame_cfg (g : FrameSt → FrameSt) : (setFrame s g).cfg = s.cfg := rfl
@[simp] theorem setFrame_ops (g : FrameSt → FrameSt) : (setFrame s g).ops = s.ops := rfl
@[simp] theorem setFrame_l0p (g : FrameSt → FrameSt) : (setFrame s g).l0p = s.l0p := rfl
@[simp] theorem setFrame_pins (g : FrameSt → FrameSt) : (setFrame s g).pins = s.pins := rfl

/-! ### `setUnit` -/

@[simp] theorem setUnit_pending (k : Nat) (x : UnitSt) : (setUnit s k x).pending = s.pending := rfl
@[simp] theorem setUnit_sent (k : Nat) (x : UnitSt) : (setUnit s k x).sent = s.sent := rfl
@[simp] theorem setUnit_regs (k : Nat) (x : UnitSt) : (setUnit s k x).regs = s.regs := rfl
@[simp] theorem setUnit_shadow (k : Nat) (x : UnitSt) : (setUnit s k x).shadow = s.shadow := rfl
@[simp] theorem setUnit_freeCnt (k : Nat) (x : UnitSt) : (setUnit s k x).freeCnt = s.freeCnt := rfl
@[simp] theorem setUnit_frame (k : Nat) (x : UnitSt) : (setUnit s k x).frame = s.frame := rfl
@[simp] theorem setUnit_entries (k : Nat) (x : UnitSt) : (setUnit s k x).entries = s.entries := rfl
@[simp] theorem setUnit_ring (k : Nat) (x : UnitSt) : (setUnit s k x).ring = s.ring := rfl
@[simp] theorem setUnit_plan (k : Nat) (x : UnitSt) : (setUnit s k x).plan = s.plan := rfl
@[simp] theorem setUnit_done (k : Nat) (x : UnitSt) : (setUnit s k x).done = s.done := rfl
@[simp] theorem setUnit_fences (k : Nat) (x : UnitSt) : (setUnit s k x).fences = s.fences := rfl
@[simp] theorem setUnit_ended (k : Nat) (x : UnitSt) : (setUnit s k x).ended = s.ended := rfl
@[simp] theorem setUnit_wrapQ (k : Nat) (x : UnitSt) : (setUnit s k x).wrapQ = s.wrapQ := rfl
@[simp] theorem setUnit_fns (k : Nat) (x : UnitSt) : (setUnit s k x).fns = s.fns := rfl
@[simp] theorem setUnit_erl (k : Nat) (x : UnitSt) : (setUnit s k x).erl = s.erl := rfl
@[simp] theorem setUnit_objs (k : Nat) (x : UnitSt) : (setUnit s k x).objs = s.objs := rfl
@[simp] theorem setUnit_xlat (k : Nat) (x : UnitSt) : (setUnit s k x).xlat = s.xlat := rfl
@[simp] theorem setUnit_grans (k : Nat) (x : UnitSt) : (setUnit s k x).grans = s.grans := rfl
@[simp] theorem setUnit_remap (k : Nat) (x : UnitSt) : (setUnit s k x).remap = s.remap := rfl
@[simp] theorem setUnit_strikes (k : Nat) (x : UnitSt) : (setUnit s k x).strikes = s.strikes := rfl
@[simp] theorem setUnit_migs (k : Nat) (x : UnitSt) : (setUnit s k x).migs = s.migs := rfl
@[simp] theorem setUnit_mem (k : Nat) (x : UnitSt) : (setUnit s k x).mem = s.mem := rfl
@[simp] theorem setUnit_board (k : Nat) (x : UnitSt) : (setUnit s k x).board = s.board := rfl
@[simp] theorem setUnit_boardUsed (k : Nat) (x : UnitSt) : (setUnit s k x).boardUsed = s.boardUsed := rfl
@[simp] theorem setUnit_boardFilling (k : Nat) (x : UnitSt) : (setUnit s k x).boardFilling = s.boardFilling := rfl
@[simp] theorem setUnit_boardRetired (k : Nat) (x : UnitSt) : (setUnit s k x).boardRetired = s.boardRetired := rfl
@[simp] theorem setUnit_boardRetiring (k : Nat) (x : UnitSt) : (setUnit s k x).boardRetiring = s.boardRetiring := rfl
@[simp] theorem setUnit_reels (k : Nat) (x : UnitSt) : (setUnit s k x).reels = s.reels := rfl
@[simp] theorem setUnit_acts (k : Nat) (x : UnitSt) : (setUnit s k x).acts = s.acts := rfl
@[simp] theorem setUnit_resid (k : Nat) (x : UnitSt) : (setUnit s k x).resid = s.resid := rfl
@[simp] theorem setUnit_parts (k : Nat) (x : UnitSt) : (setUnit s k x).parts = s.parts := rfl
@[simp] theorem setUnit_routes (k : Nat) (x : UnitSt) : (setUnit s k x).routes = s.routes := rfl
@[simp] theorem setUnit_logits (k : Nat) (x : UnitSt) : (setUnit s k x).logits = s.logits := rfl
@[simp] theorem setUnit_streamBuf (k : Nat) (x : UnitSt) : (setUnit s k x).streamBuf = s.streamBuf := rfl
@[simp] theorem setUnit_work (k : Nat) (x : UnitSt) : (setUnit s k x).work = s.work := rfl
@[simp] theorem setUnit_runs (k : Nat) (x : UnitSt) : (setUnit s k x).runs = s.runs := rfl
@[simp] theorem setUnit_colls (k : Nat) (x : UnitSt) : (setUnit s k x).colls = s.colls := rfl
@[simp] theorem setUnit_refPos (k : Nat) (x : UnitSt) : (setUnit s k x).refPos = s.refPos := rfl
@[simp] theorem setUnit_actCnt (k : Nat) (x : UnitSt) : (setUnit s k x).actCnt = s.actCnt := rfl
@[simp] theorem setUnit_maskAreas (k : Nat) (x : UnitSt) : (setUnit s k x).maskAreas = s.maskAreas := rfl
@[simp] theorem setUnit_tblSlots (k : Nat) (x : UnitSt) : (setUnit s k x).tblSlots = s.tblSlots := rfl
@[simp] theorem setUnit_tblLoads (k : Nat) (x : UnitSt) : (setUnit s k x).tblLoads = s.tblLoads := rfl
@[simp] theorem setUnit_xqLatched (k : Nat) (x : UnitSt) : (setUnit s k x).xqLatched = s.xqLatched := rfl
@[simp] theorem setUnit_rrNext (k : Nat) (x : UnitSt) : (setUnit s k x).rrNext = s.rrNext := rfl
@[simp] theorem setUnit_xfers (k : Nat) (x : UnitSt) : (setUnit s k x).xfers = s.xfers := rfl
@[simp] theorem setUnit_inbound (k : Nat) (x : UnitSt) : (setUnit s k x).inbound = s.inbound := rfl
@[simp] theorem setUnit_switchDue (k : Nat) (x : UnitSt) : (setUnit s k x).switchDue = s.switchDue := rfl
@[simp] theorem setUnit_apertureQ (k : Nat) (x : UnitSt) : (setUnit s k x).apertureQ = s.apertureQ := rfl
@[simp] theorem setUnit_flash (k : Nat) (x : UnitSt) : (setUnit s k x).flash = s.flash := rfl
@[simp] theorem setUnit_portSt (k : Nat) (x : UnitSt) : (setUnit s k x).portSt = s.portSt := rfl
@[simp] theorem setUnit_trust (k : Nat) (x : UnitSt) : (setUnit s k x).trust = s.trust := rfl
@[simp] theorem setUnit_cfg (k : Nat) (x : UnitSt) : (setUnit s k x).cfg = s.cfg := rfl
@[simp] theorem setUnit_ops (k : Nat) (x : UnitSt) : (setUnit s k x).ops = s.ops := rfl
@[simp] theorem setUnit_l0p (k : Nat) (x : UnitSt) : (setUnit s k x).l0p = s.l0p := rfl
@[simp] theorem setUnit_pins (k : Nat) (x : UnitSt) : (setUnit s k x).pins = s.pins := rfl

/-! ### `setPort` -/

@[simp] theorem setPort_pending (p : Nat) (x : PortSt) : (setPort s p x).pending = s.pending := rfl
@[simp] theorem setPort_sent (p : Nat) (x : PortSt) : (setPort s p x).sent = s.sent := rfl
@[simp] theorem setPort_regs (p : Nat) (x : PortSt) : (setPort s p x).regs = s.regs := rfl
@[simp] theorem setPort_shadow (p : Nat) (x : PortSt) : (setPort s p x).shadow = s.shadow := rfl
@[simp] theorem setPort_freeCnt (p : Nat) (x : PortSt) : (setPort s p x).freeCnt = s.freeCnt := rfl
@[simp] theorem setPort_frame (p : Nat) (x : PortSt) : (setPort s p x).frame = s.frame := rfl
@[simp] theorem setPort_entries (p : Nat) (x : PortSt) : (setPort s p x).entries = s.entries := rfl
@[simp] theorem setPort_ring (p : Nat) (x : PortSt) : (setPort s p x).ring = s.ring := rfl
@[simp] theorem setPort_plan (p : Nat) (x : PortSt) : (setPort s p x).plan = s.plan := rfl
@[simp] theorem setPort_done (p : Nat) (x : PortSt) : (setPort s p x).done = s.done := rfl
@[simp] theorem setPort_fences (p : Nat) (x : PortSt) : (setPort s p x).fences = s.fences := rfl
@[simp] theorem setPort_ended (p : Nat) (x : PortSt) : (setPort s p x).ended = s.ended := rfl
@[simp] theorem setPort_wrapQ (p : Nat) (x : PortSt) : (setPort s p x).wrapQ = s.wrapQ := rfl
@[simp] theorem setPort_fns (p : Nat) (x : PortSt) : (setPort s p x).fns = s.fns := rfl
@[simp] theorem setPort_erl (p : Nat) (x : PortSt) : (setPort s p x).erl = s.erl := rfl
@[simp] theorem setPort_objs (p : Nat) (x : PortSt) : (setPort s p x).objs = s.objs := rfl
@[simp] theorem setPort_xlat (p : Nat) (x : PortSt) : (setPort s p x).xlat = s.xlat := rfl
@[simp] theorem setPort_grans (p : Nat) (x : PortSt) : (setPort s p x).grans = s.grans := rfl
@[simp] theorem setPort_remap (p : Nat) (x : PortSt) : (setPort s p x).remap = s.remap := rfl
@[simp] theorem setPort_strikes (p : Nat) (x : PortSt) : (setPort s p x).strikes = s.strikes := rfl
@[simp] theorem setPort_migs (p : Nat) (x : PortSt) : (setPort s p x).migs = s.migs := rfl
@[simp] theorem setPort_mem (p : Nat) (x : PortSt) : (setPort s p x).mem = s.mem := rfl
@[simp] theorem setPort_board (p : Nat) (x : PortSt) : (setPort s p x).board = s.board := rfl
@[simp] theorem setPort_boardUsed (p : Nat) (x : PortSt) : (setPort s p x).boardUsed = s.boardUsed := rfl
@[simp] theorem setPort_boardFilling (p : Nat) (x : PortSt) : (setPort s p x).boardFilling = s.boardFilling := rfl
@[simp] theorem setPort_boardRetired (p : Nat) (x : PortSt) : (setPort s p x).boardRetired = s.boardRetired := rfl
@[simp] theorem setPort_boardRetiring (p : Nat) (x : PortSt) : (setPort s p x).boardRetiring = s.boardRetiring := rfl
@[simp] theorem setPort_reels (p : Nat) (x : PortSt) : (setPort s p x).reels = s.reels := rfl
@[simp] theorem setPort_acts (p : Nat) (x : PortSt) : (setPort s p x).acts = s.acts := rfl
@[simp] theorem setPort_resid (p : Nat) (x : PortSt) : (setPort s p x).resid = s.resid := rfl
@[simp] theorem setPort_parts (p : Nat) (x : PortSt) : (setPort s p x).parts = s.parts := rfl
@[simp] theorem setPort_routes (p : Nat) (x : PortSt) : (setPort s p x).routes = s.routes := rfl
@[simp] theorem setPort_logits (p : Nat) (x : PortSt) : (setPort s p x).logits = s.logits := rfl
@[simp] theorem setPort_streamBuf (p : Nat) (x : PortSt) : (setPort s p x).streamBuf = s.streamBuf := rfl
@[simp] theorem setPort_work (p : Nat) (x : PortSt) : (setPort s p x).work = s.work := rfl
@[simp] theorem setPort_runs (p : Nat) (x : PortSt) : (setPort s p x).runs = s.runs := rfl
@[simp] theorem setPort_units (p : Nat) (x : PortSt) : (setPort s p x).units = s.units := rfl
@[simp] theorem setPort_staging (p : Nat) (x : PortSt) : (setPort s p x).staging = s.staging := rfl
@[simp] theorem setPort_colls (p : Nat) (x : PortSt) : (setPort s p x).colls = s.colls := rfl
@[simp] theorem setPort_refPos (p : Nat) (x : PortSt) : (setPort s p x).refPos = s.refPos := rfl
@[simp] theorem setPort_actCnt (p : Nat) (x : PortSt) : (setPort s p x).actCnt = s.actCnt := rfl
@[simp] theorem setPort_maskAreas (p : Nat) (x : PortSt) : (setPort s p x).maskAreas = s.maskAreas := rfl
@[simp] theorem setPort_tblSlots (p : Nat) (x : PortSt) : (setPort s p x).tblSlots = s.tblSlots := rfl
@[simp] theorem setPort_tblLoads (p : Nat) (x : PortSt) : (setPort s p x).tblLoads = s.tblLoads := rfl
@[simp] theorem setPort_xqLatched (p : Nat) (x : PortSt) : (setPort s p x).xqLatched = s.xqLatched := rfl
@[simp] theorem setPort_rrNext (p : Nat) (x : PortSt) : (setPort s p x).rrNext = s.rrNext := rfl
@[simp] theorem setPort_xfers (p : Nat) (x : PortSt) : (setPort s p x).xfers = s.xfers := rfl
@[simp] theorem setPort_inbound (p : Nat) (x : PortSt) : (setPort s p x).inbound = s.inbound := rfl
@[simp] theorem setPort_switchDue (p : Nat) (x : PortSt) : (setPort s p x).switchDue = s.switchDue := rfl
@[simp] theorem setPort_apertureQ (p : Nat) (x : PortSt) : (setPort s p x).apertureQ = s.apertureQ := rfl
@[simp] theorem setPort_flash (p : Nat) (x : PortSt) : (setPort s p x).flash = s.flash := rfl
@[simp] theorem setPort_trust (p : Nat) (x : PortSt) : (setPort s p x).trust = s.trust := rfl
@[simp] theorem setPort_cfg (p : Nat) (x : PortSt) : (setPort s p x).cfg = s.cfg := rfl
@[simp] theorem setPort_ops (p : Nat) (x : PortSt) : (setPort s p x).ops = s.ops := rfl
@[simp] theorem setPort_l0p (p : Nat) (x : PortSt) : (setPort s p x).l0p = s.l0p := rfl
@[simp] theorem setPort_pins (p : Nat) (x : PortSt) : (setPort s p x).pins = s.pins := rfl

/-! ### `setEntry` -/

@[simp] theorem setEntry_pending (e : Nat) (x : Entry) : (setEntry s e x).pending = s.pending := rfl
@[simp] theorem setEntry_sent (e : Nat) (x : Entry) : (setEntry s e x).sent = s.sent := rfl
@[simp] theorem setEntry_regs (e : Nat) (x : Entry) : (setEntry s e x).regs = s.regs := rfl
@[simp] theorem setEntry_shadow (e : Nat) (x : Entry) : (setEntry s e x).shadow = s.shadow := rfl
@[simp] theorem setEntry_freeCnt (e : Nat) (x : Entry) : (setEntry s e x).freeCnt = s.freeCnt := rfl
@[simp] theorem setEntry_frame (e : Nat) (x : Entry) : (setEntry s e x).frame = s.frame := rfl
@[simp] theorem setEntry_ring (e : Nat) (x : Entry) : (setEntry s e x).ring = s.ring := rfl
@[simp] theorem setEntry_plan (e : Nat) (x : Entry) : (setEntry s e x).plan = s.plan := rfl
@[simp] theorem setEntry_done (e : Nat) (x : Entry) : (setEntry s e x).done = s.done := rfl
@[simp] theorem setEntry_fences (e : Nat) (x : Entry) : (setEntry s e x).fences = s.fences := rfl
@[simp] theorem setEntry_ended (e : Nat) (x : Entry) : (setEntry s e x).ended = s.ended := rfl
@[simp] theorem setEntry_wrapQ (e : Nat) (x : Entry) : (setEntry s e x).wrapQ = s.wrapQ := rfl
@[simp] theorem setEntry_fns (e : Nat) (x : Entry) : (setEntry s e x).fns = s.fns := rfl
@[simp] theorem setEntry_erl (e : Nat) (x : Entry) : (setEntry s e x).erl = s.erl := rfl
@[simp] theorem setEntry_objs (e : Nat) (x : Entry) : (setEntry s e x).objs = s.objs := rfl
@[simp] theorem setEntry_xlat (e : Nat) (x : Entry) : (setEntry s e x).xlat = s.xlat := rfl
@[simp] theorem setEntry_grans (e : Nat) (x : Entry) : (setEntry s e x).grans = s.grans := rfl
@[simp] theorem setEntry_remap (e : Nat) (x : Entry) : (setEntry s e x).remap = s.remap := rfl
@[simp] theorem setEntry_strikes (e : Nat) (x : Entry) : (setEntry s e x).strikes = s.strikes := rfl
@[simp] theorem setEntry_migs (e : Nat) (x : Entry) : (setEntry s e x).migs = s.migs := rfl
@[simp] theorem setEntry_mem (e : Nat) (x : Entry) : (setEntry s e x).mem = s.mem := rfl
@[simp] theorem setEntry_board (e : Nat) (x : Entry) : (setEntry s e x).board = s.board := rfl
@[simp] theorem setEntry_boardUsed (e : Nat) (x : Entry) : (setEntry s e x).boardUsed = s.boardUsed := rfl
@[simp] theorem setEntry_boardFilling (e : Nat) (x : Entry) : (setEntry s e x).boardFilling = s.boardFilling := rfl
@[simp] theorem setEntry_boardRetired (e : Nat) (x : Entry) : (setEntry s e x).boardRetired = s.boardRetired := rfl
@[simp] theorem setEntry_boardRetiring (e : Nat) (x : Entry) : (setEntry s e x).boardRetiring = s.boardRetiring := rfl
@[simp] theorem setEntry_reels (e : Nat) (x : Entry) : (setEntry s e x).reels = s.reels := rfl
@[simp] theorem setEntry_acts (e : Nat) (x : Entry) : (setEntry s e x).acts = s.acts := rfl
@[simp] theorem setEntry_resid (e : Nat) (x : Entry) : (setEntry s e x).resid = s.resid := rfl
@[simp] theorem setEntry_parts (e : Nat) (x : Entry) : (setEntry s e x).parts = s.parts := rfl
@[simp] theorem setEntry_routes (e : Nat) (x : Entry) : (setEntry s e x).routes = s.routes := rfl
@[simp] theorem setEntry_logits (e : Nat) (x : Entry) : (setEntry s e x).logits = s.logits := rfl
@[simp] theorem setEntry_streamBuf (e : Nat) (x : Entry) : (setEntry s e x).streamBuf = s.streamBuf := rfl
@[simp] theorem setEntry_work (e : Nat) (x : Entry) : (setEntry s e x).work = s.work := rfl
@[simp] theorem setEntry_runs (e : Nat) (x : Entry) : (setEntry s e x).runs = s.runs := rfl
@[simp] theorem setEntry_units (e : Nat) (x : Entry) : (setEntry s e x).units = s.units := rfl
@[simp] theorem setEntry_staging (e : Nat) (x : Entry) : (setEntry s e x).staging = s.staging := rfl
@[simp] theorem setEntry_colls (e : Nat) (x : Entry) : (setEntry s e x).colls = s.colls := rfl
@[simp] theorem setEntry_refPos (e : Nat) (x : Entry) : (setEntry s e x).refPos = s.refPos := rfl
@[simp] theorem setEntry_actCnt (e : Nat) (x : Entry) : (setEntry s e x).actCnt = s.actCnt := rfl
@[simp] theorem setEntry_maskAreas (e : Nat) (x : Entry) : (setEntry s e x).maskAreas = s.maskAreas := rfl
@[simp] theorem setEntry_tblSlots (e : Nat) (x : Entry) : (setEntry s e x).tblSlots = s.tblSlots := rfl
@[simp] theorem setEntry_tblLoads (e : Nat) (x : Entry) : (setEntry s e x).tblLoads = s.tblLoads := rfl
@[simp] theorem setEntry_xqLatched (e : Nat) (x : Entry) : (setEntry s e x).xqLatched = s.xqLatched := rfl
@[simp] theorem setEntry_rrNext (e : Nat) (x : Entry) : (setEntry s e x).rrNext = s.rrNext := rfl
@[simp] theorem setEntry_xfers (e : Nat) (x : Entry) : (setEntry s e x).xfers = s.xfers := rfl
@[simp] theorem setEntry_inbound (e : Nat) (x : Entry) : (setEntry s e x).inbound = s.inbound := rfl
@[simp] theorem setEntry_switchDue (e : Nat) (x : Entry) : (setEntry s e x).switchDue = s.switchDue := rfl
@[simp] theorem setEntry_apertureQ (e : Nat) (x : Entry) : (setEntry s e x).apertureQ = s.apertureQ := rfl
@[simp] theorem setEntry_flash (e : Nat) (x : Entry) : (setEntry s e x).flash = s.flash := rfl
@[simp] theorem setEntry_portSt (e : Nat) (x : Entry) : (setEntry s e x).portSt = s.portSt := rfl
@[simp] theorem setEntry_trust (e : Nat) (x : Entry) : (setEntry s e x).trust = s.trust := rfl
@[simp] theorem setEntry_cfg (e : Nat) (x : Entry) : (setEntry s e x).cfg = s.cfg := rfl
@[simp] theorem setEntry_ops (e : Nat) (x : Entry) : (setEntry s e x).ops = s.ops := rfl
@[simp] theorem setEntry_l0p (e : Nat) (x : Entry) : (setEntry s e x).l0p = s.l0p := rfl
@[simp] theorem setEntry_pins (e : Nat) (x : Entry) : (setEntry s e x).pins = s.pins := rfl

/-! ### `setObj` -/

@[simp] theorem setObj_pending (o : Nat) (x : Obj) : (setObj s o x).pending = s.pending := rfl
@[simp] theorem setObj_sent (o : Nat) (x : Obj) : (setObj s o x).sent = s.sent := rfl
@[simp] theorem setObj_regs (o : Nat) (x : Obj) : (setObj s o x).regs = s.regs := rfl
@[simp] theorem setObj_shadow (o : Nat) (x : Obj) : (setObj s o x).shadow = s.shadow := rfl
@[simp] theorem setObj_freeCnt (o : Nat) (x : Obj) : (setObj s o x).freeCnt = s.freeCnt := rfl
@[simp] theorem setObj_frame (o : Nat) (x : Obj) : (setObj s o x).frame = s.frame := rfl
@[simp] theorem setObj_entries (o : Nat) (x : Obj) : (setObj s o x).entries = s.entries := rfl
@[simp] theorem setObj_ring (o : Nat) (x : Obj) : (setObj s o x).ring = s.ring := rfl
@[simp] theorem setObj_plan (o : Nat) (x : Obj) : (setObj s o x).plan = s.plan := rfl
@[simp] theorem setObj_done (o : Nat) (x : Obj) : (setObj s o x).done = s.done := rfl
@[simp] theorem setObj_fences (o : Nat) (x : Obj) : (setObj s o x).fences = s.fences := rfl
@[simp] theorem setObj_ended (o : Nat) (x : Obj) : (setObj s o x).ended = s.ended := rfl
@[simp] theorem setObj_wrapQ (o : Nat) (x : Obj) : (setObj s o x).wrapQ = s.wrapQ := rfl
@[simp] theorem setObj_fns (o : Nat) (x : Obj) : (setObj s o x).fns = s.fns := rfl
@[simp] theorem setObj_erl (o : Nat) (x : Obj) : (setObj s o x).erl = s.erl := rfl
@[simp] theorem setObj_xlat (o : Nat) (x : Obj) : (setObj s o x).xlat = s.xlat := rfl
@[simp] theorem setObj_grans (o : Nat) (x : Obj) : (setObj s o x).grans = s.grans := rfl
@[simp] theorem setObj_remap (o : Nat) (x : Obj) : (setObj s o x).remap = s.remap := rfl
@[simp] theorem setObj_strikes (o : Nat) (x : Obj) : (setObj s o x).strikes = s.strikes := rfl
@[simp] theorem setObj_migs (o : Nat) (x : Obj) : (setObj s o x).migs = s.migs := rfl
@[simp] theorem setObj_mem (o : Nat) (x : Obj) : (setObj s o x).mem = s.mem := rfl
@[simp] theorem setObj_board (o : Nat) (x : Obj) : (setObj s o x).board = s.board := rfl
@[simp] theorem setObj_boardUsed (o : Nat) (x : Obj) : (setObj s o x).boardUsed = s.boardUsed := rfl
@[simp] theorem setObj_boardFilling (o : Nat) (x : Obj) : (setObj s o x).boardFilling = s.boardFilling := rfl
@[simp] theorem setObj_boardRetired (o : Nat) (x : Obj) : (setObj s o x).boardRetired = s.boardRetired := rfl
@[simp] theorem setObj_boardRetiring (o : Nat) (x : Obj) : (setObj s o x).boardRetiring = s.boardRetiring := rfl
@[simp] theorem setObj_reels (o : Nat) (x : Obj) : (setObj s o x).reels = s.reels := rfl
@[simp] theorem setObj_acts (o : Nat) (x : Obj) : (setObj s o x).acts = s.acts := rfl
@[simp] theorem setObj_resid (o : Nat) (x : Obj) : (setObj s o x).resid = s.resid := rfl
@[simp] theorem setObj_parts (o : Nat) (x : Obj) : (setObj s o x).parts = s.parts := rfl
@[simp] theorem setObj_routes (o : Nat) (x : Obj) : (setObj s o x).routes = s.routes := rfl
@[simp] theorem setObj_logits (o : Nat) (x : Obj) : (setObj s o x).logits = s.logits := rfl
@[simp] theorem setObj_streamBuf (o : Nat) (x : Obj) : (setObj s o x).streamBuf = s.streamBuf := rfl
@[simp] theorem setObj_work (o : Nat) (x : Obj) : (setObj s o x).work = s.work := rfl
@[simp] theorem setObj_runs (o : Nat) (x : Obj) : (setObj s o x).runs = s.runs := rfl
@[simp] theorem setObj_units (o : Nat) (x : Obj) : (setObj s o x).units = s.units := rfl
@[simp] theorem setObj_staging (o : Nat) (x : Obj) : (setObj s o x).staging = s.staging := rfl
@[simp] theorem setObj_colls (o : Nat) (x : Obj) : (setObj s o x).colls = s.colls := rfl
@[simp] theorem setObj_refPos (o : Nat) (x : Obj) : (setObj s o x).refPos = s.refPos := rfl
@[simp] theorem setObj_actCnt (o : Nat) (x : Obj) : (setObj s o x).actCnt = s.actCnt := rfl
@[simp] theorem setObj_maskAreas (o : Nat) (x : Obj) : (setObj s o x).maskAreas = s.maskAreas := rfl
@[simp] theorem setObj_tblSlots (o : Nat) (x : Obj) : (setObj s o x).tblSlots = s.tblSlots := rfl
@[simp] theorem setObj_tblLoads (o : Nat) (x : Obj) : (setObj s o x).tblLoads = s.tblLoads := rfl
@[simp] theorem setObj_xqLatched (o : Nat) (x : Obj) : (setObj s o x).xqLatched = s.xqLatched := rfl
@[simp] theorem setObj_rrNext (o : Nat) (x : Obj) : (setObj s o x).rrNext = s.rrNext := rfl
@[simp] theorem setObj_xfers (o : Nat) (x : Obj) : (setObj s o x).xfers = s.xfers := rfl
@[simp] theorem setObj_inbound (o : Nat) (x : Obj) : (setObj s o x).inbound = s.inbound := rfl
@[simp] theorem setObj_switchDue (o : Nat) (x : Obj) : (setObj s o x).switchDue = s.switchDue := rfl
@[simp] theorem setObj_apertureQ (o : Nat) (x : Obj) : (setObj s o x).apertureQ = s.apertureQ := rfl
@[simp] theorem setObj_flash (o : Nat) (x : Obj) : (setObj s o x).flash = s.flash := rfl
@[simp] theorem setObj_portSt (o : Nat) (x : Obj) : (setObj s o x).portSt = s.portSt := rfl
@[simp] theorem setObj_trust (o : Nat) (x : Obj) : (setObj s o x).trust = s.trust := rfl
@[simp] theorem setObj_cfg (o : Nat) (x : Obj) : (setObj s o x).cfg = s.cfg := rfl
@[simp] theorem setObj_ops (o : Nat) (x : Obj) : (setObj s o x).ops = s.ops := rfl
@[simp] theorem setObj_l0p (o : Nat) (x : Obj) : (setObj s o x).l0p = s.l0p := rfl
@[simp] theorem setObj_pins (o : Nat) (x : Obj) : (setObj s o x).pins = s.pins := rfl

/-! ### `setReel` -/

@[simp] theorem setReel_pending (r : Nat) (x : Reel) : (setReel s r x).pending = s.pending := rfl
@[simp] theorem setReel_sent (r : Nat) (x : Reel) : (setReel s r x).sent = s.sent := rfl
@[simp] theorem setReel_regs (r : Nat) (x : Reel) : (setReel s r x).regs = s.regs := rfl
@[simp] theorem setReel_shadow (r : Nat) (x : Reel) : (setReel s r x).shadow = s.shadow := rfl
@[simp] theorem setReel_freeCnt (r : Nat) (x : Reel) : (setReel s r x).freeCnt = s.freeCnt := rfl
@[simp] theorem setReel_frame (r : Nat) (x : Reel) : (setReel s r x).frame = s.frame := rfl
@[simp] theorem setReel_entries (r : Nat) (x : Reel) : (setReel s r x).entries = s.entries := rfl
@[simp] theorem setReel_ring (r : Nat) (x : Reel) : (setReel s r x).ring = s.ring := rfl
@[simp] theorem setReel_plan (r : Nat) (x : Reel) : (setReel s r x).plan = s.plan := rfl
@[simp] theorem setReel_done (r : Nat) (x : Reel) : (setReel s r x).done = s.done := rfl
@[simp] theorem setReel_fences (r : Nat) (x : Reel) : (setReel s r x).fences = s.fences := rfl
@[simp] theorem setReel_ended (r : Nat) (x : Reel) : (setReel s r x).ended = s.ended := rfl
@[simp] theorem setReel_wrapQ (r : Nat) (x : Reel) : (setReel s r x).wrapQ = s.wrapQ := rfl
@[simp] theorem setReel_fns (r : Nat) (x : Reel) : (setReel s r x).fns = s.fns := rfl
@[simp] theorem setReel_erl (r : Nat) (x : Reel) : (setReel s r x).erl = s.erl := rfl
@[simp] theorem setReel_objs (r : Nat) (x : Reel) : (setReel s r x).objs = s.objs := rfl
@[simp] theorem setReel_xlat (r : Nat) (x : Reel) : (setReel s r x).xlat = s.xlat := rfl
@[simp] theorem setReel_grans (r : Nat) (x : Reel) : (setReel s r x).grans = s.grans := rfl
@[simp] theorem setReel_remap (r : Nat) (x : Reel) : (setReel s r x).remap = s.remap := rfl
@[simp] theorem setReel_strikes (r : Nat) (x : Reel) : (setReel s r x).strikes = s.strikes := rfl
@[simp] theorem setReel_migs (r : Nat) (x : Reel) : (setReel s r x).migs = s.migs := rfl
@[simp] theorem setReel_mem (r : Nat) (x : Reel) : (setReel s r x).mem = s.mem := rfl
@[simp] theorem setReel_board (r : Nat) (x : Reel) : (setReel s r x).board = s.board := rfl
@[simp] theorem setReel_boardUsed (r : Nat) (x : Reel) : (setReel s r x).boardUsed = s.boardUsed := rfl
@[simp] theorem setReel_boardFilling (r : Nat) (x : Reel) : (setReel s r x).boardFilling = s.boardFilling := rfl
@[simp] theorem setReel_boardRetired (r : Nat) (x : Reel) : (setReel s r x).boardRetired = s.boardRetired := rfl
@[simp] theorem setReel_boardRetiring (r : Nat) (x : Reel) : (setReel s r x).boardRetiring = s.boardRetiring := rfl
@[simp] theorem setReel_acts (r : Nat) (x : Reel) : (setReel s r x).acts = s.acts := rfl
@[simp] theorem setReel_resid (r : Nat) (x : Reel) : (setReel s r x).resid = s.resid := rfl
@[simp] theorem setReel_parts (r : Nat) (x : Reel) : (setReel s r x).parts = s.parts := rfl
@[simp] theorem setReel_routes (r : Nat) (x : Reel) : (setReel s r x).routes = s.routes := rfl
@[simp] theorem setReel_logits (r : Nat) (x : Reel) : (setReel s r x).logits = s.logits := rfl
@[simp] theorem setReel_streamBuf (r : Nat) (x : Reel) : (setReel s r x).streamBuf = s.streamBuf := rfl
@[simp] theorem setReel_work (r : Nat) (x : Reel) : (setReel s r x).work = s.work := rfl
@[simp] theorem setReel_runs (r : Nat) (x : Reel) : (setReel s r x).runs = s.runs := rfl
@[simp] theorem setReel_units (r : Nat) (x : Reel) : (setReel s r x).units = s.units := rfl
@[simp] theorem setReel_staging (r : Nat) (x : Reel) : (setReel s r x).staging = s.staging := rfl
@[simp] theorem setReel_colls (r : Nat) (x : Reel) : (setReel s r x).colls = s.colls := rfl
@[simp] theorem setReel_refPos (r : Nat) (x : Reel) : (setReel s r x).refPos = s.refPos := rfl
@[simp] theorem setReel_actCnt (r : Nat) (x : Reel) : (setReel s r x).actCnt = s.actCnt := rfl
@[simp] theorem setReel_maskAreas (r : Nat) (x : Reel) : (setReel s r x).maskAreas = s.maskAreas := rfl
@[simp] theorem setReel_tblSlots (r : Nat) (x : Reel) : (setReel s r x).tblSlots = s.tblSlots := rfl
@[simp] theorem setReel_tblLoads (r : Nat) (x : Reel) : (setReel s r x).tblLoads = s.tblLoads := rfl
@[simp] theorem setReel_xqLatched (r : Nat) (x : Reel) : (setReel s r x).xqLatched = s.xqLatched := rfl
@[simp] theorem setReel_rrNext (r : Nat) (x : Reel) : (setReel s r x).rrNext = s.rrNext := rfl
@[simp] theorem setReel_xfers (r : Nat) (x : Reel) : (setReel s r x).xfers = s.xfers := rfl
@[simp] theorem setReel_inbound (r : Nat) (x : Reel) : (setReel s r x).inbound = s.inbound := rfl
@[simp] theorem setReel_switchDue (r : Nat) (x : Reel) : (setReel s r x).switchDue = s.switchDue := rfl
@[simp] theorem setReel_apertureQ (r : Nat) (x : Reel) : (setReel s r x).apertureQ = s.apertureQ := rfl
@[simp] theorem setReel_flash (r : Nat) (x : Reel) : (setReel s r x).flash = s.flash := rfl
@[simp] theorem setReel_portSt (r : Nat) (x : Reel) : (setReel s r x).portSt = s.portSt := rfl
@[simp] theorem setReel_trust (r : Nat) (x : Reel) : (setReel s r x).trust = s.trust := rfl
@[simp] theorem setReel_cfg (r : Nat) (x : Reel) : (setReel s r x).cfg = s.cfg := rfl
@[simp] theorem setReel_ops (r : Nat) (x : Reel) : (setReel s r x).ops = s.ops := rfl
@[simp] theorem setReel_l0p (r : Nat) (x : Reel) : (setReel s r x).l0p = s.l0p := rfl
@[simp] theorem setReel_pins (r : Nat) (x : Reel) : (setReel s r x).pins = s.pins := rfl

/-! ### `setOps` -/

@[simp] theorem setOps_pending (o : OpsSt) : (setOps s o).pending = s.pending := rfl
@[simp] theorem setOps_sent (o : OpsSt) : (setOps s o).sent = s.sent := rfl
@[simp] theorem setOps_regs (o : OpsSt) : (setOps s o).regs = s.regs := rfl
@[simp] theorem setOps_shadow (o : OpsSt) : (setOps s o).shadow = s.shadow := rfl
@[simp] theorem setOps_freeCnt (o : OpsSt) : (setOps s o).freeCnt = s.freeCnt := rfl
@[simp] theorem setOps_frame (o : OpsSt) : (setOps s o).frame = s.frame := rfl
@[simp] theorem setOps_entries (o : OpsSt) : (setOps s o).entries = s.entries := rfl
@[simp] theorem setOps_ring (o : OpsSt) : (setOps s o).ring = s.ring := rfl
@[simp] theorem setOps_plan (o : OpsSt) : (setOps s o).plan = s.plan := rfl
@[simp] theorem setOps_done (o : OpsSt) : (setOps s o).done = s.done := rfl
@[simp] theorem setOps_fences (o : OpsSt) : (setOps s o).fences = s.fences := rfl
@[simp] theorem setOps_ended (o : OpsSt) : (setOps s o).ended = s.ended := rfl
@[simp] theorem setOps_wrapQ (o : OpsSt) : (setOps s o).wrapQ = s.wrapQ := rfl
@[simp] theorem setOps_fns (o : OpsSt) : (setOps s o).fns = s.fns := rfl
@[simp] theorem setOps_erl (o : OpsSt) : (setOps s o).erl = s.erl := rfl
@[simp] theorem setOps_objs (o : OpsSt) : (setOps s o).objs = s.objs := rfl
@[simp] theorem setOps_xlat (o : OpsSt) : (setOps s o).xlat = s.xlat := rfl
@[simp] theorem setOps_grans (o : OpsSt) : (setOps s o).grans = s.grans := rfl
@[simp] theorem setOps_remap (o : OpsSt) : (setOps s o).remap = s.remap := rfl
@[simp] theorem setOps_strikes (o : OpsSt) : (setOps s o).strikes = s.strikes := rfl
@[simp] theorem setOps_migs (o : OpsSt) : (setOps s o).migs = s.migs := rfl
@[simp] theorem setOps_mem (o : OpsSt) : (setOps s o).mem = s.mem := rfl
@[simp] theorem setOps_board (o : OpsSt) : (setOps s o).board = s.board := rfl
@[simp] theorem setOps_boardUsed (o : OpsSt) : (setOps s o).boardUsed = s.boardUsed := rfl
@[simp] theorem setOps_boardFilling (o : OpsSt) : (setOps s o).boardFilling = s.boardFilling := rfl
@[simp] theorem setOps_boardRetired (o : OpsSt) : (setOps s o).boardRetired = s.boardRetired := rfl
@[simp] theorem setOps_boardRetiring (o : OpsSt) : (setOps s o).boardRetiring = s.boardRetiring := rfl
@[simp] theorem setOps_reels (o : OpsSt) : (setOps s o).reels = s.reels := rfl
@[simp] theorem setOps_acts (o : OpsSt) : (setOps s o).acts = s.acts := rfl
@[simp] theorem setOps_resid (o : OpsSt) : (setOps s o).resid = s.resid := rfl
@[simp] theorem setOps_parts (o : OpsSt) : (setOps s o).parts = s.parts := rfl
@[simp] theorem setOps_routes (o : OpsSt) : (setOps s o).routes = s.routes := rfl
@[simp] theorem setOps_logits (o : OpsSt) : (setOps s o).logits = s.logits := rfl
@[simp] theorem setOps_streamBuf (o : OpsSt) : (setOps s o).streamBuf = s.streamBuf := rfl
@[simp] theorem setOps_work (o : OpsSt) : (setOps s o).work = s.work := rfl
@[simp] theorem setOps_runs (o : OpsSt) : (setOps s o).runs = s.runs := rfl
@[simp] theorem setOps_units (o : OpsSt) : (setOps s o).units = s.units := rfl
@[simp] theorem setOps_staging (o : OpsSt) : (setOps s o).staging = s.staging := rfl
@[simp] theorem setOps_colls (o : OpsSt) : (setOps s o).colls = s.colls := rfl
@[simp] theorem setOps_refPos (o : OpsSt) : (setOps s o).refPos = s.refPos := rfl
@[simp] theorem setOps_actCnt (o : OpsSt) : (setOps s o).actCnt = s.actCnt := rfl
@[simp] theorem setOps_maskAreas (o : OpsSt) : (setOps s o).maskAreas = s.maskAreas := rfl
@[simp] theorem setOps_tblSlots (o : OpsSt) : (setOps s o).tblSlots = s.tblSlots := rfl
@[simp] theorem setOps_tblLoads (o : OpsSt) : (setOps s o).tblLoads = s.tblLoads := rfl
@[simp] theorem setOps_xqLatched (o : OpsSt) : (setOps s o).xqLatched = s.xqLatched := rfl
@[simp] theorem setOps_rrNext (o : OpsSt) : (setOps s o).rrNext = s.rrNext := rfl
@[simp] theorem setOps_xfers (o : OpsSt) : (setOps s o).xfers = s.xfers := rfl
@[simp] theorem setOps_inbound (o : OpsSt) : (setOps s o).inbound = s.inbound := rfl
@[simp] theorem setOps_switchDue (o : OpsSt) : (setOps s o).switchDue = s.switchDue := rfl
@[simp] theorem setOps_apertureQ (o : OpsSt) : (setOps s o).apertureQ = s.apertureQ := rfl
@[simp] theorem setOps_flash (o : OpsSt) : (setOps s o).flash = s.flash := rfl
@[simp] theorem setOps_portSt (o : OpsSt) : (setOps s o).portSt = s.portSt := rfl
@[simp] theorem setOps_trust (o : OpsSt) : (setOps s o).trust = s.trust := rfl
@[simp] theorem setOps_cfg (o : OpsSt) : (setOps s o).cfg = s.cfg := rfl
@[simp] theorem setOps_l0p (o : OpsSt) : (setOps s o).l0p = s.l0p := rfl
@[simp] theorem setOps_pins (o : OpsSt) : (setOps s o).pins = s.pins := rfl

/-! ### `conclude` -/

@[simp] theorem conclude_pending (c : CmdId) (st : Nat) : (conclude s c st).pending = s.pending := rfl
@[simp] theorem conclude_sent (c : CmdId) (st : Nat) : (conclude s c st).sent = s.sent := rfl
@[simp] theorem conclude_regs (c : CmdId) (st : Nat) : (conclude s c st).regs = s.regs := rfl
@[simp] theorem conclude_shadow (c : CmdId) (st : Nat) : (conclude s c st).shadow = s.shadow := rfl
@[simp] theorem conclude_freeCnt (c : CmdId) (st : Nat) : (conclude s c st).freeCnt = s.freeCnt := rfl
@[simp] theorem conclude_frame (c : CmdId) (st : Nat) : (conclude s c st).frame = s.frame := rfl
@[simp] theorem conclude_entries (c : CmdId) (st : Nat) : (conclude s c st).entries = s.entries := rfl
@[simp] theorem conclude_ring (c : CmdId) (st : Nat) : (conclude s c st).ring = s.ring := rfl
@[simp] theorem conclude_plan (c : CmdId) (st : Nat) : (conclude s c st).plan = s.plan := rfl
@[simp] theorem conclude_fences (c : CmdId) (st : Nat) : (conclude s c st).fences = s.fences := rfl
@[simp] theorem conclude_ended (c : CmdId) (st : Nat) : (conclude s c st).ended = s.ended := rfl
@[simp] theorem conclude_wrapQ (c : CmdId) (st : Nat) : (conclude s c st).wrapQ = s.wrapQ := rfl
@[simp] theorem conclude_fns (c : CmdId) (st : Nat) : (conclude s c st).fns = s.fns := rfl
@[simp] theorem conclude_erl (c : CmdId) (st : Nat) : (conclude s c st).erl = s.erl := rfl
@[simp] theorem conclude_objs (c : CmdId) (st : Nat) : (conclude s c st).objs = s.objs := rfl
@[simp] theorem conclude_xlat (c : CmdId) (st : Nat) : (conclude s c st).xlat = s.xlat := rfl
@[simp] theorem conclude_grans (c : CmdId) (st : Nat) : (conclude s c st).grans = s.grans := rfl
@[simp] theorem conclude_remap (c : CmdId) (st : Nat) : (conclude s c st).remap = s.remap := rfl
@[simp] theorem conclude_strikes (c : CmdId) (st : Nat) : (conclude s c st).strikes = s.strikes := rfl
@[simp] theorem conclude_migs (c : CmdId) (st : Nat) : (conclude s c st).migs = s.migs := rfl
@[simp] theorem conclude_mem (c : CmdId) (st : Nat) : (conclude s c st).mem = s.mem := rfl
@[simp] theorem conclude_board (c : CmdId) (st : Nat) : (conclude s c st).board = s.board := rfl
@[simp] theorem conclude_boardUsed (c : CmdId) (st : Nat) : (conclude s c st).boardUsed = s.boardUsed := rfl
@[simp] theorem conclude_boardFilling (c : CmdId) (st : Nat) : (conclude s c st).boardFilling = s.boardFilling := rfl
@[simp] theorem conclude_boardRetired (c : CmdId) (st : Nat) : (conclude s c st).boardRetired = s.boardRetired := rfl
@[simp] theorem conclude_boardRetiring (c : CmdId) (st : Nat) : (conclude s c st).boardRetiring = s.boardRetiring := rfl
@[simp] theorem conclude_reels (c : CmdId) (st : Nat) : (conclude s c st).reels = s.reels := rfl
@[simp] theorem conclude_acts (c : CmdId) (st : Nat) : (conclude s c st).acts = s.acts := rfl
@[simp] theorem conclude_resid (c : CmdId) (st : Nat) : (conclude s c st).resid = s.resid := rfl
@[simp] theorem conclude_parts (c : CmdId) (st : Nat) : (conclude s c st).parts = s.parts := rfl
@[simp] theorem conclude_routes (c : CmdId) (st : Nat) : (conclude s c st).routes = s.routes := rfl
@[simp] theorem conclude_logits (c : CmdId) (st : Nat) : (conclude s c st).logits = s.logits := rfl
@[simp] theorem conclude_streamBuf (c : CmdId) (st : Nat) : (conclude s c st).streamBuf = s.streamBuf := rfl
@[simp] theorem conclude_work (c : CmdId) (st : Nat) : (conclude s c st).work = s.work := rfl
@[simp] theorem conclude_runs (c : CmdId) (st : Nat) : (conclude s c st).runs = s.runs := rfl
@[simp] theorem conclude_units (c : CmdId) (st : Nat) : (conclude s c st).units = s.units := rfl
@[simp] theorem conclude_staging (c : CmdId) (st : Nat) : (conclude s c st).staging = s.staging := rfl
@[simp] theorem conclude_colls (c : CmdId) (st : Nat) : (conclude s c st).colls = s.colls := rfl
@[simp] theorem conclude_refPos (c : CmdId) (st : Nat) : (conclude s c st).refPos = s.refPos := rfl
@[simp] theorem conclude_actCnt (c : CmdId) (st : Nat) : (conclude s c st).actCnt = s.actCnt := rfl
@[simp] theorem conclude_maskAreas (c : CmdId) (st : Nat) : (conclude s c st).maskAreas = s.maskAreas := rfl
@[simp] theorem conclude_tblSlots (c : CmdId) (st : Nat) : (conclude s c st).tblSlots = s.tblSlots := rfl
@[simp] theorem conclude_tblLoads (c : CmdId) (st : Nat) : (conclude s c st).tblLoads = s.tblLoads := rfl
@[simp] theorem conclude_xqLatched (c : CmdId) (st : Nat) : (conclude s c st).xqLatched = s.xqLatched := rfl
@[simp] theorem conclude_rrNext (c : CmdId) (st : Nat) : (conclude s c st).rrNext = s.rrNext := rfl
@[simp] theorem conclude_xfers (c : CmdId) (st : Nat) : (conclude s c st).xfers = s.xfers := rfl
@[simp] theorem conclude_inbound (c : CmdId) (st : Nat) : (conclude s c st).inbound = s.inbound := rfl
@[simp] theorem conclude_switchDue (c : CmdId) (st : Nat) : (conclude s c st).switchDue = s.switchDue := rfl
@[simp] theorem conclude_apertureQ (c : CmdId) (st : Nat) : (conclude s c st).apertureQ = s.apertureQ := rfl
@[simp] theorem conclude_flash (c : CmdId) (st : Nat) : (conclude s c st).flash = s.flash := rfl
@[simp] theorem conclude_portSt (c : CmdId) (st : Nat) : (conclude s c st).portSt = s.portSt := rfl
@[simp] theorem conclude_trust (c : CmdId) (st : Nat) : (conclude s c st).trust = s.trust := rfl
@[simp] theorem conclude_cfg (c : CmdId) (st : Nat) : (conclude s c st).cfg = s.cfg := rfl
@[simp] theorem conclude_ops (c : CmdId) (st : Nat) : (conclude s c st).ops = s.ops := rfl
@[simp] theorem conclude_l0p (c : CmdId) (st : Nat) : (conclude s c st).l0p = s.l0p := rfl
@[simp] theorem conclude_pins (c : CmdId) (st : Nat) : (conclude s c st).pins = s.pins := rfl

/-! ### Registers -/

/-- Two fields have one key only when function, address and place agree. -/
theorem regKey_inj {f g : Nat} {a b : Fld} (ha : a.addr < 2 ^ 24) (hb : b.addr < 2 ^ 24) (la : a.lsb < 64) (lb : b.lsb < 64)
    (h : regKey f a = regKey g b) : f = g ∧ a.addr = b.addr ∧ a.lsb = b.lsb := by
  simp only [regKey] at h
  omega

theorem rd_wr (fn : Nat) (f : Fld) (v : Nat) (fn' : Nat) (f' : Fld) (h : regKey fn' f' = regKey fn f → f'.rst = f.rst) :
    rd (wr s fn f v) fn' f' = if regKey fn' f' = regKey fn f then v % 2 ^ f.width else rd s fn' f' := by
  simp only [rd, wr, mapGetD, mapSet]
  by_cases e : regKey fn' f' = regKey fn f
  · have r := h e
    rw [e, r]
    split
    · rename_i hv; simp [mapGet_mapDel, hv]
    · simp [mapGet_mapPut]
  · split
    · simp [mapGet_mapDel, e]
    · simp [mapGet_mapPut, e]

/-- A field reads as it was written. -/
@[simp] theorem rd_wr_same (fn : Nat) (f : Fld) (v : Nat) : rd (wr s fn f v) fn f = v % 2 ^ f.width := by
  simp [rd_wr]

/-- A write leaves every field with another key. -/
theorem rd_wr_ne (fn : Nat) (f : Fld) (v : Nat) (fn' : Nat) (f' : Fld) (h : regKey fn' f' ≠ regKey fn f) :
    rd (wr s fn f v) fn' f' = rd s fn' f' := by
  rw [rd_wr s fn f v fn' f' (fun e => absurd e h), if_neg h]

@[simp] theorem rd0_wr0_same (f : Fld) (v : Nat) : rd0 (wr0 s f v) f = v % 2 ^ f.width := rd_wr_same s 0 f v

/-- The register store keeps its canonical order. -/
theorem wr_sorted (fn : Nat) (f : Fld) (v : Nat) (h : mapSorted s.regs = true) : mapSorted (wr s fn f v).regs = true :=
  mapSorted_mapSet _ _ _ _ h

/-- A read sees only the register store. -/
theorem rd_congr {s t : State} (h : s.regs = t.regs) (fn : Nat) (f : Fld) : rd s fn f = rd t fn f := by simp [rd, h]

/-! ### Units, ports, objects, functions -/

@[simp] theorem unitOf_setUnit_same (k : Nat) (x : UnitSt) : unitOf (setUnit s k x) k = x := by simp [unitOf, setUnit]
@[simp] theorem portOf_setPort_same (p : Nat) (x : PortSt) : portOf (setPort s p x) p = x := by simp [portOf, setPort]
@[simp] theorem objOf_setObj_same (o : Nat) (x : Obj) : objOf (setObj s o x) o = x := by simp [objOf, setObj]
@[simp] theorem fnOf_setFn_same (fn : Nat) (x : FnSt) : fnOf (setFn s fn x) fn = x := by simp [fnOf, setFn]
@[simp] theorem reelOf_setReel_same (r : Nat) (x : Reel) : reelOf (setReel s r x) r = x := by simp [reelOf, setReel]

theorem unitOf_setUnit_ne (k : Nat) (x : UnitSt) {j : Nat} (h : j ≠ k) : unitOf (setUnit s k x) j = unitOf s j := by
  simp [unitOf, setUnit, mapGetD_mapSet_ne _ _ _ _ h]

theorem portOf_setPort_ne (p : Nat) (x : PortSt) {q : Nat} (h : q ≠ p) : portOf (setPort s p x) q = portOf s q := by
  simp [portOf, setPort, mapGetD_mapSet_ne _ _ _ _ h]

theorem objOf_setObj_ne (o : Nat) (x : Obj) {p : Nat} (h : p ≠ o) : objOf (setObj s o x) p = objOf s p := by
  simp [objOf, setObj, mapGetD_mapSet_ne _ _ _ _ h]

theorem fnOf_setFn_ne (fn : Nat) (x : FnSt) {g : Nat} (h : g ≠ fn) : fnOf (setFn s fn x) g = fnOf s g := by
  simp [fnOf, setFn, mapGetD_mapSet_ne _ _ _ _ h]

/-- An entry reads as it was set, with the UPD_CNT of a window that is open (R59). -/
theorem entryOf_setEntry_same (e : Nat) (x : Entry) :
    entryOf (setEntry s e x) e = { x with updCnt := if (entryOf s e).updCnt % 2 = 0 then nextUpd (entryOf s e).updCnt
                                                    else (entryOf s e).updCnt } := by
  simp [entryOf, setEntry]

theorem entryOf_setEntry_ne (e : Nat) (x : Entry) {d : Nat} (h : d ≠ e) : entryOf (setEntry s e x) d = entryOf s d := by
  simp [entryOf, setEntry, mapGetD_mapSet_ne _ _ _ _ h]

end Sys2Proof.Machine
end

