-- ==== Sys2Proof/Laws/Ops.lean ====
section
/-! SUPPORT. Laws of the shared operations: what a command's effect takes as its frame, and what taking and concluding a ring command does. -/
namespace Sys2Proof.Machine

/-! ### The form of every effect -/

/-- A device whose clocks stand still keeps its state; nothing leaves it. -/
theorem act_stopped {s : State} (f : State → State) (h : running s = false) : act s f = .next { s with sent := [] } := by
  simp [act, h]

/-- A device whose clocks run takes the effect, and its queue is as it was. -/
theorem act_running {s : State} (f : State → State) (h : running s = true) :
    act s f = .next { f { s with sent := [] } with pending := s.pending } := by
  simp [act, h]

/-- An effect answers a next state with the same queue. -/
theorem act_next (s : State) (f : State → State) : ∃ t, act s f = .next t ∧ t.pending = s.pending := ⟨_, rfl, rfl⟩

theorem actAlways_next (s : State) (f : State → State) : ∃ t, actAlways s f = .next t ∧ t.pending = s.pending := ⟨_, rfl, rfl⟩

/-- The clocks depend on the pins alone. -/
theorem running_congr {s t : State} (h : s.pins = t.pins) : running s = running t := by simp [running, h]

/-! ### Counters -/

theorem bump_eq (s : State) (fn : Nat) (f : Fld) (n : Nat) : bump s fn f n = wr s fn f (satAdd f.width (rd s fn f) n) := rfl

/-- A counter adds, and holds its greatest value. -/
theorem rd_bump_same (s : State) (fn : Nat) (f : Fld) (n : Nat) :
    rd (bump s fn f n) fn f = min (rd s fn f + n) (2 ^ f.width - 1) := by
  have p : 0 < 2 ^ f.width := Nat.two_pow_pos _
  rw [bump_eq, rd_wr_same, satAdd, Nat.mod_eq_of_lt]
  omega

/-! ### Ring commands -/

/-- A command that Slate cannot read stays in its ring. -/
theorem submit_waits {s : State} {h : CmdHdr} (c : Instr) (op : Nat) (e : Option Nat) (f : State → CmdId → State)
    (w : (slateOpen s && sqReady s h.fn h.ring) = false) : submit s h c op e f = { s with ring := s.ring ++ [c] } := by
  simp [submit, w]

/-- A command that Slate reads takes effect after HEAD has advanced past it. -/
theorem submit_applies {s : State} {h : CmdHdr} (c : Instr) (op : Nat) (e : Option Nat) (f : State → CmdId → State)
    (w : (slateOpen s && sqReady s h.fn h.ring) = true) :
    submit s h c op e f = f (takeCmd s h.fn h.ring) (cmdId s h op e) := by
  simp [submit, w]

/-- A refusal is the command's completion alone (R11). -/
theorem guarded_refused {s : State} {c : CmdId} {k : Checks} {f : State → State} {st : Nat} (h : refusal k = some st) :
    guarded s c k f = conclude s c st := by simp [guarded, h]

theorem guarded_ok {s : State} {c : CmdId} {k : Checks} {f : State → State} (h : refusal k = none) : guarded s c k f = f s := by
  simp [guarded, h]

/-- A command is refused exactly when one of its checks fails (R13). -/
theorem refusal_none_iff (k : Checks) :
    refusal k = none ↔ k.denied = false ∧ k.key = false ∧ k.badState = false ∧ k.badField = false ∧ k.limit = false
      ∧ k.extent = false ∧ k.noRoom = false := by
  simp only [refusal]
  cases k with
  | mk a b c d e f g => cases a <;> cases b <;> cases c <;> cases d <;> cases e <;> cases f <;> cases g <;> simp

@[simp] theorem conclude_done (s : State) (c : CmdId) (st : Nat) :
    (conclude s c st).done = s.done ++ [⟨c, st, (match c.entry with | some e => (entryOf s e).userTag | none => 0), false⟩] := rfl

/-! ### Bank units -/

/-- A command for a unit that does not execute the instruction changes nothing but the launch of a privileged channel. -/
theorem unitStep_idle {s : State} {u : BankId} {c : Code} (hu : unitExists u = true)
    (h : executes (launched s (bankOf u)) (bankOf u) c = false) : unitStep s u c = launched s (bankOf u) := by
  simp [unitStep, hu, h]

/-- A WAITIN that waits changes nothing but that launch either. -/
theorem unitStep_waits {s : State} {u : BankId} {c : Code} (hu : unitExists u = true)
    (h : waits (launched s (bankOf u)) (bankOf u) (unitOf (launched s (bankOf u)) (bankOf u)) c = true) : unitStep s u c = launched s (bankOf u) := by
  simp [unitStep, hu, h]

/-- A fault of an instruction ends the unit's run. -/
theorem unitStep_fault {s : State} {u : BankId} {c : Code} {f : UnitFault} (hu : unitExists u = true)
    (h : executes (launched s (bankOf u)) (bankOf u) c = true)
    (hw : waits (launched s (bankOf u)) (bankOf u) (unitOf (launched s (bankOf u)) (bankOf u)) c = false)
    (hf : faultOf (launched s (bankOf u)) (bankOf u) (unitOf (launched s (bankOf u)) (bankOf u)) c = some f) :
    unitStep s u c = unitFails (launched s (bankOf u)) (bankOf u) (unitOf (launched s (bankOf u)) (bankOf u)) f := by
  simp [unitStep, hu, h, hw, hf]

/-- A unit that executes an instruction without a fault counts its clocks and takes its effect. -/
theorem unitStep_runs {s : State} {u : BankId} {c : Code} (hu : unitExists u = true)
    (h : executes (launched s (bankOf u)) (bankOf u) c = true)
    (hw : waits (launched s (bankOf u)) (bankOf u) (unitOf (launched s (bankOf u)) (bankOf u)) c = false)
    (hf : faultOf (launched s (bankOf u)) (bankOf u) (unitOf (launched s (bankOf u)) (bankOf u)) c = none) :
    unitStep s u c =
      unitEffect (bump0 (launched s (bankOf u)) (inst BNK_UNIT_CYC u.stack) (codeClocks (unitOf (launched s (bankOf u)) (bankOf u)) c))
        (bankOf u)
        { unitOf (launched s (bankOf u)) (bankOf u) with
            clocks := (unitOf (launched s (bankOf u)) (bankOf u)).clocks + codeClocks (unitOf (launched s (bankOf u)) (bankOf u)) c } c := by
  simp [unitStep, hu, h, hw, hf]

/-! ### Steps -/

/-- A step runs the command at the front of the queue. -/
theorem step_cons {s : State} {c : Instr} {cs : List Instr} (h : s.pending = c :: cs) : step s = exec c { s with pending := cs } := by
  simp [step, h]

theorem step_nil {s : State} (h : s.pending = []) : step s = .next (idle s) := by simp [step, h]

end Sys2Proof.Machine
end

