-- ==== Sys2Proof/Tests/Slice0.lean ====
section
/-! SUPPORT. The model's own tests. First: an ill-formed operand for each check of Syntax. Then: unit instructions read from words that
R198 and R199 spell, commands with the results that the manual states, and for each statement with hypotheses a state and operands
that meet them. -/
namespace Sys2Proof.Tests

open Sys2Proof Sys2Proof.Machine

-- One theorem at a time: each kernel evaluation would otherwise hold a thread of its own.
set_option Elab.async false

/-! ### Small states -/

abbrev R : Machine.State := State.reset

/-- Fields of the physical function take values. -/
def sets (rs : List (Fld × Nat)) (s : Machine.State) : Machine.State := rs.foldl (fun s r => wr0 s r.1 r.2) s

/-- Function 0 may receive writes, and a submission doorbell for one command is latched. -/
def host : FnSt := { fnZero with bme := true, latched := [1, 0, 0, 0] }

/-- A Slate that reads ring 0 of the physical function; key slot 0 is ACTIVE. -/
def slate : Machine.State :=
  { sets [(sqFld PCI_SQ_EN 0, 1), (fldAt KEY_SLOT_STATE 0 8, 1)] R with
    frame := { frameZero with phase := .slate, kind := .frame, wrapDone := false }, fns := [(0, host)] }

/-- A frame's Roll, and its Wrap. -/
def roll : Machine.State := { R with frame := { frameZero with phase := .roll, kind := .frame, wrapDone := false } }
def wrapOf (q : List WrapItem) : Machine.State :=
  { R with frame := { frameZero with phase := .wrap, kind := .frame, wrapDone := false }, wrapQ := q, fns := [(0, host)] }

def h0 : CmdHdr := ⟨0, 0, 7, false⟩
def u0 : BankId := ⟨0, 0, 0⟩
/-- The last bank of the last shared channel. -/
def uLast : BankId := ⟨31, 31, 31⟩

/-! ### Ill-formed operands -/

def badHdr : CmdHdr := ⟨32, 0, 0, false⟩
def badRing : CmdHdr := ⟨0, 4, 0, false⟩
def badBank : BankId := ⟨0, 32, 0⟩
def stage0 : StageIn := ⟨0, 0, 0, [], 0, 0, 2, false, 0⟩
def desc0 : DmaDesc := ⟨1, false, false, 1, 1, 0, 0, false, 0, 0, 0, 0, 64, 64, 0, false⟩
def pkt0 : Packet := ⟨1, 0, 0, 0, 0, false, false, false, 0, 63, 0, 0, 0, 0, 0, 0, [], true, false⟩
def img0 : TableImage := ⟨false, []⟩

/-- Each is refused by the check of its operands, and only by it: the operands around it are legal. -/
theorem test_ill_formed_registers :
    [Instr.peerSilent 16, .discard 32 0x1000, .discard 0 0x1004, .softReset 4, .softResetDone 4, .blkCtlEnable 4 true, .haltAtTick (2 ^ 24) true,
     .blkErrClear 32 0x1000 0, .registerWrite 0 4 0, .registerWrite 32 0 0, .readToClear 0 (2 ^ 24), .sqDoorbell 0 4 0, .xpdTailWrite 0 8 0,
     .ringHeadWrite 0 (.output 64) 0, .resume 0 8, .csvFirstWrite 32 0, .rgnBoundWrite 32 0 0, .rgnBoundWrite 0 32 0, .conversionDone 32].all
      (fun i => !i.wf) = true := by decide

theorem test_ill_formed_ring_commands :
    [Instr.fence badHdr, .fence badRing, .draft h0 0 9 (List.replicate 9 0), .draft h0 0 2 [0], .tableLoad h0 0 0 0 0 (some img0),
      .tableLoadEffect 0 8,
     .ringFetch 0 4, .torusInstall 0 true 0 [], .revocationComplete 32, .revokeDrained 32].all (fun i => !i.wf) = true := by decide

theorem test_ill_formed_transfers_and_links :
    [Instr.copy ⟨0, 8, desc0, [], [], []⟩, .expandFb ⟨0, 0, desc0, [], [], []⟩, .descFetchFail 32 0, .heldRecordFlush 32 false, .eventHoldoff 32,
     .pktWrite 4 { pkt0 with data := List.replicate 64 0 }, .pktWrite 0 pkt0, .pktReadReq 0 pkt0, .reservedPacket 0 pkt0,
     .linkFlit 0 0 [] (some 48), .flitCrcFail 4, .trainEnable 4, .laneFail 0 48].all (fun i => !i.wf) = true := by decide

theorem test_ill_formed_units_and_memory :
    [Instr.norm { stage0 with reel := 4 }, .proj { stage0 with stage := 16384 }, .embed stage0 [⟨8192, []⟩], .attnWalk stage0 8192 0 0 [] [],
     .streamPrefetch 4 0, .modeSwitchProc 32 0 ⟨0, 0, 1,
       false⟩, .collection 32, .nop badBank, .setw u0 6, .sparam u0 0 4, .tb u0 0 0 0 0 3, .lka u0 1 0 0 0 false false,
     .zero (.hub u0 98304), .targetedRefresh u0 98304, .dailyCheck ⟨32, []⟩, .dailyCheck ⟨31, [(32768, 0)]⟩,
     .dailyCheck ⟨31, [(0, 98304)]⟩, .migrationCopy 2 0 ⟨false, 0, true⟩, .granuleRelocate u0 48,
     .apertureRead (2 ^ 36) ⟨1, ⟨[], []⟩⟩, .apertureRead (2 ^ 36 - 3) ⟨4, ⟨[], []⟩⟩].all (fun i => !i.wf) = true := by decide

theorem test_ill_formed_events :
    [Instr.canaryRead u0 1 true, .canaryRead u0 9 true, .monitorReport (.replica 64 0), .monitorReport (.eye 0 48 0), .readLimitRewrite 1 ⟨1, 0, 0,
      0, false⟩,
     .readLimitRewrite 1 ⟨2, 1, 0, 1, false⟩, .readLimitRewrite 1 ⟨2, 0, 1, 0,
       false⟩, .wearLevel 0 65536 0, .wearLevel 0 5 5, .flashProgramFail ⟨1,
       1⟩, .flr 0, .lockInterface 0, .doeDiscovery 32 0, .debugObserve 2 0, .debugData (.rows u0) 98304 0, .debugData (.unitV u0) 32 0, .debugData (.unitS u0) 16 0,
     .debugData (.unitRb badBank) 0 0, .debugData (.sram 64) 0 0, .debugData (.postUnit 0) (2 ^ 24 + 1) 0, .boardMemoryRefresh 16 0 0].all
      (fun i => !i.wf) = true := by decide

/-! ### Words of the unit instructions, spelled by the encoding of R198: OPCODE [7:0], D [12:8], A [17:13], B [22:18], IMM9 [31:23] -/

theorem test_word_halt : decodeCode 0x00000001 = some .halt := by decide
/-- SADDI S3, S4, -1: opcode 0x0A, D 3, A 4, IMM9 0x1FF. -/
theorem test_word_saddi : decodeCode (0x0A + 3 * 2 ^ 8 + 4 * 2 ^ 13 + 0x1FF * 2 ^ 23) = some (.saddi 3 4 0x1FF) := by decide
theorem test_word_undefined : decodeCode 0x000000FF = none := by decide

/-! ### Results that the manual works out, and one of FIPS 180-4 -/

/-- 10, one draw and one draft: the candidates 17 and 902 of weights 1.0 and 0.5, and the token 902 for 0.6875. -/
theorem test_candidates_of_the_example :
    let w : Cands := [(17, 0x40A00000), (902, 0x40800000), (33, 0x40400000), (4410, 0x3F800000)].map fun x => (x.1, exp2K (f32SubOp x.2 0x40A00000))
    let kept := w.filter fun x => !f32Lt x.2 0x3DCCCCCD
    let cs := nucleus (f32Mul 0x3F400000 (sumWeights kept)) 0 kept
    w = [(17, 0x3F800000), (902, 0x3F000000), (33, 0x3E800000), (4410, 0x3D800000)] ∧ cs = [(17, 0x3F800000), (902, 0x3F000000)]
      ∧ pick cs 0x3F300000 none = 902 := by decide +kernel

/-- 06, one group, one wide token: 1.5, -0.40625 and 4.2 times 32 quantise to 48, -13 and 134. -/
theorem test_codes_of_the_example :
    (quant16 0x3FC00000 0x42000000).code = 48 ∧ (quant16 0xBED00000 0x42000000).code = -13
      ∧ (quant16 0x40866666 0x42000000).code = 134 := by decide +kernel

/-- 07, one step on the example reel: 66,560 B a slot, 1,170 units of 1 KiB a page of 18 slots. -/
theorem test_slot_of_the_example : slotBytes 1 256 = 66560 ∧ pageUnits { objZero with hdim := 1, nps := 18 } ⟨0, 4, false, 0⟩ = 1170 := by decide

/-- 14, a packet in a 4 × 4 torus: device 11 at (3, 2) sends by X+ across the dateline on VC 5; device 0 at (0, 2) goes on by X+. -/
theorem test_route_of_the_example :
    let at_ := fun x y => sets [(LNK_TOPO_NX_M1, 3), (LNK_TOPO_NY_M1, 3), (LNK_TOPO_X, x), (LNK_TOPO_Y, y)] R
    let p : Packet := { pkt0 with dst := 1, tc := 2 }
    devIndex (at_ 3 2) = 11 ∧ routePort (at_ 3 2) p = some 0 ∧ nextDl (at_ 3 2) none false 0 = true ∧ vcOf { p with dl := true } = 5
      ∧ routePort (at_ 0 2) p = some 0 ∧ routePort (at_ 1 2) p = some 2 := by decide +kernel

/-- 18, throttling within one Roll: at 420, 1,650 and 1,050 W the array level rises to 1 and the stacks' does not. -/
theorem test_governor_of_the_example :
    ∃ t, exec (.governorSample 420 1650 1050) R = .next t ∧ rd0 t PWR_LVL_A = 1 ∧ rd0 t PWR_LVL_S = 0 := ⟨_, rfl, by decide +kernel⟩

/-- 18, the rail at the ceiling of 3,300 MHz with GUARD at 55 and at 60 mV. -/
theorem test_rail_of_the_example : coreNeed R 3300 55 = 845 ∧ coreNeed R 3300 60 = 850 := by decide +kernel

/-- FIPS 180-4: SHA-384 of "abc" begins CB 00 75 3F. -/
theorem test_sha384_abc : (digestBytes (sha384 [0x61, 0x62, 0x63])).take 4 = [0xCB, 0x00, 0x75, 0x3F] := by decide +kernel

/-- R27 and R45: the gate takes its value; a doorbell past the ring's size is dropped. -/
theorem test_gate : ∃ t, exec (.gate true) R = .next t ∧ rd0 t FRM_CTL_GATE = 1 := ⟨_, rfl, by decide +kernel⟩
theorem test_doorbell_dropped : ∃ t, exec (.sqDoorbell 0 0 2) R = .next t ∧ rd0 t (sqFld PCI_SQ_TAIL 0) = 0 := ⟨_, rfl, by decide +kernel⟩

/-- A state in which the unit of bank 0 of channel 0, in processor mode, has this instruction at PC 0 of its code store. -/
def unitAt (c : Code) (x : UnitSt) : Machine.State :=
  { sets [(inst BNK_MODE_PROC 0, 1)] R with units := [(0, { x with running := true, code := [(0, encodeCode c)] })] }

/-- R199: SADD of a unit in its run, and R202: a row outside the window halts it. -/
theorem test_sadd :
    let s := unitAt (.sadd 4 1 2) { unitZero with limit := 9, s := [(1, 0xFFFFFFFF), (2, 3)] }
    ∃ t, exec (.sadd u0 4 1 2) s = .next t ∧ sGet (unitOf t 0) 4 = 2 ∧ (unitOf t 0).pc = 1 := ⟨_, rfl, by decide +kernel⟩
theorem test_row_outside_its_window :
    let s := unitAt (.rld 0 0 0) { unitZero with limit := 9 }
    ∃ t, exec (.rld u0 0 0 false) s = .next t ∧ (unitOf t 0).running = false ∧ rd0 t (inst BNK_FAULT_CNT 0) = 1 := ⟨_, rfl, by decide +kernel⟩

/-! ### Witnesses: each meets the hypotheses of the statement it is named after -/

theorem witness_StepRunsTheFrontCommand : ({ R with pending := [.gate true,
  .openCutoff] } : Machine.State).pending = .gate true :: [.openCutoff] := rfl

theorem witness_EmptyQueueIdlesOneMicrosecond : R.pending = [] ∧ running R = true := by decide

theorem witness_NoCommandTouchesTheQueue : ∃ t, exec .openCutoff R = .next t := ⟨_, rfl⟩

theorem witness_OnlyRefreshOutOfSpecificationStops :
    (∀ u, Instr.tapReset ≠ .refresh u)
      ∧ (let s := sets [(STK_REF_STS_TEMP, 106)] R
         running s = true ∧ uLast.wf = true ∧ bits (rd0 s (inst STK_REF_TEMP u0.stack)) 56 8 < rd0 s (inst STK_REF_STS_TEMP u0.stack))
      ∧ (let s := sets [(STK_REF_STS_TEMP, 105)] R
         ¬ bits (rd0 s (inst STK_REF_TEMP u0.stack)) 56 8 < rd0 s (inst STK_REF_STS_TEMP u0.stack)) :=
  ⟨fun _ h => (nomatch h), by decide, by decide⟩

theorem witness_RunsWithoutRefreshNeverStop :
    ∀ u, Instr.refresh u ∉ ({ R with pending := [.openCutoff, .halt u0] } : Machine.State).pending := by
  intro u h; simp at h

theorem witness_StoppedClocksKeepEverything :
    running { R with pins := { R.pins with perstN := false } } = false ∧ Instr.openCutoff ≠ .pwrOkRise ∧ Instr.openCutoff ≠ .perstFall := by decide

theorem witness_ThermalTripHoldsUntilPowerIsRemoved :
    let s : Machine.State := { R with pins := { R.pins with thermTripN := false }, pending := [.perstRise 0] }
    s.pins.thermTripN = false ∧ s.pending.head? ≠ some .pwrOkFall := by decide

theorem witness_MemoriesKeepTheirCanonicalForm : (R.mem.wf ∧ R.board.wf) ∧ ∃ t, step R = .next t := ⟨by decide, _, rfl⟩

theorem witness_UnitInstructionsRoundTrip : (Code.tb 31 31 15 15 2).wf = true ∧ (Code.setw 5).wf = true ∧ (Code.lka 30 15 15 7 1 1).wf = true
    ∧ (Code.sparam 15 3).wf = true := by decide

theorem witness_UndefinedUnitOpcodesAreRefused :
    (0x07 : BitVec 8) = (0x00000007 : W32).extractLsb' 0 8 ∧ decodeCode 0x00000007 = none
      ∧ (0x00000121 : W32).extractLsb' 0 8 = 0x21 ∧ (0x00000121 : W32).getLsbD 8 = true
      ∧ (0x18000020 : W32).extractLsb' 0 8 = 0x20 ∧ (0x18000020 : W32).extractLsb' 27 2 = 3
      ∧ (0x03800013 : W32).extractLsb' 0 8 = 0x13 ∧ (0x03800013 : W32).extractLsb' 23 3 = 7
      ∧ decodeCode 0x00000000 = some .nop := by decide

theorem witness_RingCommandsNameAFunctionAndARing :
    cmdHdrOf (.fence ⟨31, 3, 0, false⟩) = some ⟨31, 3, 0, false⟩ ∧ (Instr.fence ⟨31, 3, 0, false⟩).wf = true := by decide

/-- A leader with the gate held. -/
def gated : Machine.State := sets [(FRM_CTL_GATE, 1)] R

theorem witness_SkippedTickCountsAndKeepsSlateClosed :
    running gated = true ∧ (tickKind { gated with sent := [], frame := { gated.frame with halted := haltAsked { gated with sent := [] } } }).1 = .skipped := by
  decide +kernel

theorem witness_OpeningTickOpensAFrame :
    let s := sets [(FRM_CTL_RUN, 1)] R
    running s = true ∧ leader s = true
      ∧ (tickKind { s with sent := [], frame := { s.frame with halted := haltAsked { s with sent := [] } } }).1 = .opening
      ∧ flag s FRM_CTL_GATE = false ∧ s.shadow = [] ∧ s.cfg.waiting = [] ∧ s.ring = [] ∧ s.trust.creation = none ∧ s.trust.revokes = []
      ∧ (∀ e ∈ s.entries, e.2.lateDue = false) ∧ s.reels = [] ∧ s.switchDue = [] ∧ (⟨false⟩ : TickIn).close = false := by
  decide +kernel

/-- RUN may be set at a leader on its own clock; each kind of the next tick has its state. -/
theorem witness_OpenCutoffDecidesTheNextTick :
    running R = true ∧ slatesRun R = true ∧ rd0 (sets [(FRM_CTL_RUN, 1)] R) FRM_CTL_RUN = 1 ∧ rd0 gated FRM_CTL_GATE = 1
      ∧ rd0 (sets [(FRM_CFG_ROLE, 1)] R) FRM_CFG_ROLE ≠ 0 := by decide +kernel

theorem witness_RunAndGateTakeTheirValue :
    recovery R = false ∧ flag R ERL_HELD_DEVICE = false ∧ (∀ n < 32, flag R (inst RGN_STS_CONVERTING n) = false) ∧ sourceOk R = true
      ∧ rd0 R FRM_CTL_RUN = 0 := by decide +kernel

/-- A stage that works on the residual stream at position 0, of object 1. -/
def resid0 : Stage := ⟨kResid, 0, 0, false, false, 0, 0, 0, 0, 8, 8, 1, 0, 0, 0, 0, 0, 0, 0⟩

theorem witness_RollAndWrapBegin :
    slate.frame.phase = .slate ∧ roll.frame.phase = .roll ∧ roll.frame.dueSeen = false ∧ workLeft roll = false
      ∧ workLeft { roll with plan := { planZero with micros := [⟨0, 0, [(0, 0)]⟩] }, reels := [(0, { reelZero with stages := [resid0] })] } = true
      ∧ (let s : Machine.State := { roll with frame := { roll.frame with dueSeen := true } }
         running s = true ∧ s.frame.phase = .roll ∧ s.frame.dueSeen = true ∧ workLeft s = false)
      ∧ ({ roll with frame := { roll.frame with kind := .maint } } : Machine.State).frame.kind = .maint := by decide +kernel

theorem witness_WrapWritesInterruptsAndReports :
    (let s := sets [(orFld SMP_OR_EN 63, 1)] (wrapOf [.token 0 63 5 6])
     running s = true ∧ s.frame.phase = .wrap ∧ s.wrapQ = [.token 0 63 5 6] ∧ rd s 0 (orFld SMP_OR_EN 63) ≠ 0 ∧ canWrite s 0 = true
       ∧ ringFull (rd s 0 (orFld SMP_OR_HEAD 63)) (rd s 0 (orFld SMP_OR_TAIL 63)) (rd s 0 (orFld SMP_OR_SIZE 63)) = false)
      ∧ (let s := sets [(orFld SMP_OR_EN 63, 1), (orFld SMP_OR_TAIL 63, 1)] (wrapOf [.token 0 63 5 6])
         ringFull (rd s 0 (orFld SMP_OR_HEAD 63)) (rd s 0 (orFld SMP_OR_TAIL 63)) (rd s 0 (orFld SMP_OR_SIZE 63)) = true)
      ∧ (let s := sets [(FRM_CTL_FRAME_INT_EN, 1), (SMP_INT_EN, 1)] (wrapOf [])
         s.wrapQ = [] ∧ s.frame.interrupted = false ∧ flag s FRM_CTL_FRAME_INT_EN = true ∧ rd s 0 SMP_INT_EN = 1 ∧ rd s 0 SMP_INT_MODE = 0
           ∧ rd s 0 SMP_INT_VECTOR < 64 ∧ rd s 0 (fldAt MSIX_MASK (rd s 0 SMP_INT_VECTOR) 16) ≠ 1 ∧ canWrite s 0 = true)
      ∧ (let s : Machine.State := { wrapOf [] with frame := { (wrapOf []).frame with interrupted := true } }
         s.frame.phase = .wrap ∧ s.frame.interrupted = true ∧ leader s = true)
      ∧ (let s : Machine.State := { sets [(FRM_CFG_ROLE, 1), (LNK_TOPO_NX_M1, 1), (inst LNK_STS_STATE 0, 5)] (wrapOf []) with
           frame := { (wrapOf []).frame with interrupted := true, leaderDev := 1 } }
         leader s = false ∧ routePort s (control 8 s.frame.leaderDev (wrapDoneData s)) = some 0 ∧ lnkState s 0 = lnkActive) := by decide +kernel

theorem witness_FailedFrameCommitsNothing :
    let s : Machine.State := { roll with frame := { roll.frame with dueSeen := true, ticksSinceDue := 16 } }
    running s = true ∧ s.frame.kind = .frame ∧ s.frame.phase = .roll ∧ s.frame.dueSeen = true ∧ s.frame.failed = false
      ∧ rd0 s FRM_SLIP_LIMIT = s.frame.ticksSinceDue := by decide +kernel

theorem witness_FrameErrorsAreRaisedAtTheirLimits :
    (let s := sets [(ERL_FAIL_RUN, 4), (FRM_CTL_RUN, 1)] R
     rd0 s ERL_FAIL_LIMIT = rd0 s ERL_FAIL_RUN ∧ rd0 s FRM_CTL_RUN = 1)
      ∧ (let s : Machine.State := { wrapOf [.token 0 1 0 0] with frame := { (wrapOf []).frame with stallTicks := 16 } }
         running s = true ∧ s.frame.phase = .wrap ∧ rd0 s FRM_SLIP_LIMIT = s.frame.stallTicks ∧ waitingRing s = some (0, some 1))
      ∧ (let s : Machine.State := { sets [(FRM_CFG_SRC, 1)] R with frame := { frameZero with fsyncRun := 8 } }
         rd0 s FRM_CFG_SRC = 1 ∧ s.frame.fsyncRun = 8)
      ∧ (let s : Machine.State := { sets [(FRM_CFG_ROLE, 1)] R with frame := { frameZero with beaconRun := 3 } }
         leader s = false ∧ s.frame.beaconRun = 3)
      ∧ (let s : Machine.State := { R with frame := { frameZero with participants := [⟨15, false, 8⟩] } }
         leader s = true ∧ (⟨15, false, 8⟩ : Participant) ∈ s.frame.participants) := by decide +kernel

theorem witness_TickSourceEdgesAndBeacons :
    rd0 (sets [(FRM_CFG_SRC, 1)] R) FRM_CFG_SRC = 1 ∧ (-1000 : Int) ≤ -1000 ∧ (-1001 : Int) < -1000 ∧ (1000 : Int) < 1001
      ∧ leader (sets [(FRM_CFG_ROLE, 1)] R) = false ∧ leader R = true := by decide +kernel

/-- The first page of the table, at its last instance, and a page of each kind that a clause names. -/
theorem witness_PageHeaderCommandsAct :
    (∃ p ∈ pages, 0 < p.insts ∧ p.window.isSome = true) ∧ (∃ p ∈ pages, 0 < p.insts ∧ p.softReset = true) ∧ (∃ p ∈ pages, 15 < p.insts
      ∧ p.type = 0x20)
      ∧ rd0 R FRM_CTL_RUN ≠ 1 ∧ diagnostic (sets [(MTP_MODE_MODE, 2)] R) = true ∧ leader (sets [(MTP_MODE_MODE, 2)] R) = true
      ∧ rd0 R (hdr BLK_ERR 0x1000) < 2 ^ 32 ∧ rd0 R (inst LNK_CTL_EN 3) = effective R 0x33000 (inst LNK_CTL_EN 3) := by decide +kernel

theorem witness_PeriodAndReserveWritesAreChecked :
    running R = true ∧ leader R = true ∧ (100000#17).toNat = 100000 ∧ (100001#17).toNat ≠ nextValue R 0 FRM_PERIOD
      ∧ (249#17).toNat ≠ nextValue R 0 FRM_PERIOD ∧ (251#8).toNat ≠ nextValue R 0 FRM_RESERVE ∧ (250#8).toNat ≤ 250 := by decide +kernel

theorem witness_CountersOfRingsTakeTheirWrites :
    ringUsed (rd R 31 (sqFld PCI_SQ_HEAD 3)) (1#32).toNat ≤ 2 ^ rd R 31 (sqFld PCI_SQ_SIZE 3)
      ∧ ringUsed (rd R 31 (xqFld XPD_Q_HEAD 7)) (1#32).toNat ≤ 2 ^ rd R 31 (xqFld XPD_Q_SIZE 7)
      ∧ ringUsed (0#32).toNat (rd R 31 (orFld SMP_OR_TAIL 63)) ≤ 2 ^ rd R 31 (orFld SMP_OR_SIZE 63)
      ∧ ringUsed (0#32).toNat (rd R 31 PCI_EVR_TAIL) ≤ 2 ^ rd R 31 PCI_EVR_SIZE
      ∧ ringUsed (0#32).toNat (rd0 R ERL_RING_TAIL) ≤ 2 ^ rd0 R ERL_RING_SIZE ∧ entryDenied R 0 8191 = false := by decide +kernel

theorem witness_ReadsClearTheirCounters :
    let s := sets [(CSH_LATE_CNT, 3)] R
    running s = true ∧ rd0 s CSH_LATE_CNT < 2 ^ 32 ∧ pendingOf s 0 CSH_LATE_CNT = none := by decide +kernel

def ovl : CfgImage := ⟨true, true, 100, none, 0, false, 1, [], [], [], [], [], 0⟩

theorem witness_BoundariesStagingAndConversion :
    rd0 R FRM_CTL_RUN ≠ 1 ∧ (48#6).toNat ≤ 48 ∧ (48#6).toNat ≠ bound R 31 29 ∧ boundaryHeld R 31 29 (bound R 31 29) (48#6).toNat = false
      ∧ rd0 R CFG_STAGE_BUSY ≠ 1
      ∧ (let s : Machine.State := { sets [(CFG_STAGE_BUSY, 1)] R with cfg := { cfgZero with staged := some ovl } }
         rd0 s CFG_STAGE_BUSY = 1 ∧ stageStatus s = stOk)
      ∧ (let s : Machine.State := { sets [(CFG_STAGE_BUSY, 1)] R with cfg := { cfgZero with staged := some { ovl with sigOk := false } } }
         stageStatus s ≠ stOk) := by decide +kernel

theorem witness_RecoveryWindowAndWarmReset :
    (let s : Machine.State := { sets [(ERL_RCV_READY, 1)] R with pins := { R.pins with boot := .hostWait } }
     running s = true ∧ rd0 s ERL_RCV_READY = 1 ∧ rd0 s ERL_RCV_BUSY ≠ 1 ∧ s.cfg.rcvWriting = false ∧ s.pins.boot = .hostWait)
      ∧ (let s := sets [(ERL_RCV_READY, 1), (MTP_MODE_MODE, 3)] R
         rd0 s ERL_RCV_READY = 1 ∧ rd0 s ERL_RCV_BUSY ≠ 1 ∧ s.cfg.rcvWriting = false ∧ s.pins.boot ≠ .hostWait ∧ recovery s = true ∧ ovl.sigOk = true)
      ∧ ({ R with cfg := { cfgZero with rcvWriting := true } } : Machine.State).cfg.rcvWriting = true := by decide +kernel

theorem reads_slate : ReadsRing slate h0 := by unfold ReadsRing; decide +kernel

theorem witness_RingCommandsWaitForSlate :
    cmdHdrOf (.fence h0) = some h0 ∧ running R = true ∧ (slateOpen R && sqReady R h0.fn h0.ring) = false := by decide +kernel

/-- Function 31 without a tenant, with a doorbell latched on its ring 3. -/
def h31 : CmdHdr := ⟨31, 3, 7, false⟩
def slate31 : Machine.State :=
  { wr slate 31 (sqFld PCI_SQ_EN 3) 1 with fns := [(31, { fnZero with bme := true, latched := [0, 0, 0, 1] })] }

theorem witness_UnboundFunctionsAreDenied :
    cmdHdrOf (.fence h31) = some h31 ∧ ReadsRing slate31 h31 ∧ h31.fn ≠ 0 ∧ tenantOf (afterRead slate31 h31) h31.fn = none := by
  unfold ReadsRing; decide +kernel

/-- A Slate with one entry, number 8191 or 0, in a state; tenant 0 has its key slot. -/
def sheet (e : Nat) (x : Entry) : Machine.State := { slate with entries := [(e, x)] }

theorem reads_sheet (e : Nat) (x : Entry) : ReadsRing (sheet e x) h0 := reads_slate

theorem witness_SetDeadlineReplacesTheDeadline :
    (0 : BitVec 2) ≠ 3 ∧ refusal (entryChecks (afterRead (sheet 8191 { entryZero with st := .staged }) h0) h0 8191 [.staged, .feeding,
      .decoding]) = none := by
  decide +kernel

/-- A DRAFT of a token at the vocabulary size, a FEED one token past the longest context, and both of count 0. -/
theorem witness_DraftAndFeedLimits :
    let s : Machine.State := { sheet 0 { entryZero with st := .decoding, pendValid := true } with reels := [(0,
      { reelZero with st := .resident, vocab := 10 })] }
    let r := afterRead s h0
    refusal (entryChecks r h0 0 [.decoding]) = none ∧ [10#18].take (1#4).toNat = [10] ∧ (reelOf r (entryOf r 0).reel).vocab ≤ (10#18).toNat
      ∧ (feedChecks r h0 0 2097152 false 0 false).denied = false ∧ (feedChecks r h0 0 2097152 false 0 false).key = false
      ∧ (feedChecks r h0 0 2097152 false 0 false).badState = false ∧ (feedChecks r h0 0 2097152 false 0 false).badField = false
      ∧ 2097152 < (2097152#22).toNat + (entryOf r 0).lenCommit + (entryOf r 0).pendValid.toNat
      ∧ refusal (feedChecks r h0 0 0 true 0 false) = none := by decide +kernel

theorem witness_ReelUnloadWaitsForItsEntries :
    h0.fn = 0 ∧ ∃ e ∈ (sheet 0 { entryZero with st := .staged, reel := 3 }).entries, e.2.st ≠ .free ∧ e.2.reel = (3#2).toNat := by decide +kernel

theorem witness_FeedDraftAndPriorityTakeEffect :
    let s : Machine.State := { sheet 0 { entryZero with st := .decoding } with reels := [(0, { reelZero with st := .resident, vocab := 10 })] }
    let r := afterRead s h0
    (2097152#22) ≠ 0 ∧ refusal (feedChecks r h0 0 2097152 true 0 false) = none ∧ refusal (entryChecks r h0 0 [.decoding]) = none
      ∧ [9#18].take (1#4).toNat = [9] ∧ (9#18).toNat < (reelOf r (entryOf r 0).reel).vocab
      ∧ refusal (entryChecks r h0 0 [.staged, .feeding, .decoding]) = none := by decide +kernel

theorem witness_ReleaseCancelAndPageEditTakeEffect :
    let s := sheet 0 { entryZero with st := .feeding, feed := some ⟨0, 0, 0, 2, 0, some 0⟩, lenCommit := 16, pages := [⟨0, 0, false, 0⟩] }
    let r := afterRead s h0
    refusal (entryChecks r h0 0 [.staged, .feeding, .decoding, .finished, .faulted]) = none
      ∧ (1#10) ≠ 0 ∧ (0#10).toNat + (1#10).toNat = (entryOf r 0).pages.length
      ∧ (pageEnds 0 (entryOf r 0).pages).getD ((0#10).toNat + (1#10).toNat - 1) 0 = (entryOf r 0).lenCommit
      ∧ refusal (entryChecks r h0 0 [.staged, .feeding, .decoding, .finished]) = none
      ∧ refusal { denied := unbound r h0.fn, key := carried r h0.fn none, badField := h0.rsv } = none := by decide +kernel

/-- A board object of tenant 0 in granule 0 that holds a sampling record with TOPP 1.0 at 0x1000. -/
def boardObj : Obj := { objZero with st := .board, cls := 4, home := true, size := 1, chMask := 1, stMask := 255 }
def mapped (s : Machine.State) : Machine.State :=
  { s with objs := [(1, boardObj)], xlat := [(0, ⟨.board, true, false, false, 1, 0, 0⟩)], board := [(0x100A, 0x80), (0x100B, 0x3F)]
           boardUsed := [0], reels := [(0, { reelZero with st := .resident, vocab := 10 })] }

def image0 : AdmitImage := ⟨0, 0, 0, 0, 0, 1, 0, 0, 0, 0, 0, 0x1000, 0, 0, 0, 1, 5, 6, false⟩

theorem witness_AdmitStagesAnEntry :
    let r := afterRead (sets [(SMP_OR_EN, 1)] (mapped slate)) h0
    readsBad r [2 ^ 43 - 1] [(0x1000, 64)] = [] ∧ readsBad r [] [(0, 0)] = []
      ∧ refusal (bothChecks (bothChecks (admitChecks0 r h0 8191) (admitChecks1 r h0 image0)) (admitChecks2 r h0 image0)) = none := by
  decide +kernel

/-- An object of one granule at home on board, and a STRIPED one of one unit. -/
def boardDesc : ObjDesc := ⟨1, false, 0, true, false, 0, 0, 0, 0x200000, 1, 1, 255, 0, 0, false, 0, false⟩
def stripedDesc : ObjDesc := ⟨0, true, 2, false, false, 0, 0, 0, 0x200000, 1, 1, 1, 0, 0, false, 0, false⟩
def stripes : StripeDesc := ⟨1, 1, 1, 0, [⟨31, 29, 31, 46⟩], [], false⟩

theorem witness_ObjectCommandsTakeEffect :
    (let r := afterRead (mapped slate) h0
     boardDesc.size ≠ 0 ∧ refusal (objMapChecks r h0 2 boardDesc (descObj boardDesc none true)) = none
       ∧ refusal (objMapChecks r h0 2 stripedDesc (descObj stripedDesc (some stripes) true)) = none)
      ∧ (let s : Machine.State := { mapped slate with objs := [(1, { boardObj with cls := 1, stMask := 1 })] }
         mapGet s.cfg.mach 1 = none ∧ refusal (placeChecks (afterRead s h0) h0 1 32 true) = none ∧ migrates (objOf s 1) = true
           ∧ (objOf s 1).st = .board ∧ (objOf s 1).claims = 0)
      ∧ (let s : Machine.State := { mapped slate with objs := [(1, { boardObj with cls := 1, st := .package, claims := 1 })] }
         refusal (placeChecks (afterRead s h0) h0 1 0 false) = none ∧ migrates (objOf s 1) = true ∧ (objOf s 1).st = .package
           ∧ (objOf s 1).claims = 2 ^ placeBit (afterRead s h0) h0.fn (0#6).toNat)
      ∧ (let s : Machine.State := { mapped slate with reels := [] }
         refusal (unmapChecks (afterRead s h0) h0 1) = none ∧ s.xfers = [] ∧ s.apertureQ = [] ∧ s.migs = []) := by
  decide +kernel

/-- A reel image at 0x2000 of that object: a stage plan of a RESID stage and a SAMPLE stage, one array of die 0, one cost record. -/
def imageBytes : Memory := [(0x2000, 0x52), (0x2001, 0x45), (0x2002, 0x45), (0x2003, 0x4C), (0x2004, 1), (0x2008, 9), (0x2010, 0x40), (0x2011, 0x20),
  (0x2018, 0x20), (0x2019, 0x21), (0x2020, 1), (0x2040, 2), (0x2042, 1), (0x2048, 0x80), (0x2049, 0x20), (0x2051, 0x21),
  (0x2080, BitVec.ofNat 8 kResid), (0x2088, 8), (0x208A, 0x80), (0x208D, 1), (0x20C0, BitVec.ofNat 8 kSample), (0x20C8, 8), (0x20CA,
    0x80), (0x20CD, 1),
  (0x2101, 1)]
def loading : Machine.State :=
  { mapped slate with reels := [(3, { reelZero with st := .loading, addr := 0x2000 })], board := (mapped slate).board ++ imageBytes }

theorem witness_ReelsLoadAndUnload :
    refusal (loadChecks (afterRead (mapped slate) h0) h0 3 0x1000) = none ∧ refusal (unloadChecks (afterRead (mapped slate) h0) h0 0) = none
      ∧ (running loading = true ∧ (reelOf loading 3).st = .loading ∧ (reelOf loading 3).ready = none
         ∧ imageFailure loading 3 0x2000 true = none ∧ (readReel loading 0x2000).plan.stageCnt = 2
         ∧ (readReel loading 0x2000).stages.map (·.1) = [resid0, { resid0 with kind := kSample }]
         ∧ imageFailure loading 3 0x1000 true = some stBadField ∧ canFail loading 0x1000 = true ∧ canFail loading 0x10000 = false)
      ∧ (let s : Machine.State := { mapped slate with reels := [(3, { reelZero with st := .unloading })] }
         (reelOf s 3).st = .unloading ∧ (reelOf s 3).ready = none) := by decide +kernel

def lens256 : List Nat := List.replicate 254 0 ++ [1, 1]
def load0 : TblLoad := ⟨⟨0, 0, 0, 0x30, 7, none⟩, 7, 0, 15, 1, lens256, 0⟩

theorem witness_TablesOverlaysSnapshotsAndFailedFetches :
    (let s := sets [(slotOwnFld 0 15, 32), (xqFld XPD_Q_EN 7, 1)] slate
     refusal (tableLoadChecks (afterRead s h0) h0 7 15 0x40) = none ∧ lensBad lens256 = false ∧ lens256.length = 256 ∧ (∀ l ∈ lens256, l ≤ 16))
      ∧ (let s : Machine.State := { R with tblLoads := [load0] }
         (s.tblLoads.find? fun t => t.cmd.fn = 0 && t.queue = 7) = some load0 ∧ loadDue s load0 = true)
      ∧ (let s : Machine.State := { sets [(CFG_STAGE_VALID, 1)] slate with cfg := { cfgZero with staged := some ovl } }
         refusal (overlayChecks (afterRead s h0) h0 0 0) = none)
      ∧ h0.fn = 0 ∧ h0.rsv = false ∧ (0x1000#64).toNat % 4096 = 0 ∧ (60#6).toNat ≤ 60
      ∧ rd slate 0 (sqFld PCI_SQ_EN 0) ≠ 0 := by decide +kernel

/-- The identity is established and the mailbox is free. -/
def mbx (rs : List (Fld × Nat)) : Machine.State := sets ((MTP_ID_OK, 1) :: rs) { R with fns := [(0, host)] }
def mbxA (i v : Nat) : Fld × Nat := (fldAt MTP_MBX_ARG i 8, v)

theorem witness_MailboxCommandsConclude :
    (let s := mbx [mbxA 0 (31 + 31 * 2 ^ 8), mbxA 1 (8191 + 1 * 2 ^ 16), mbxA 2 (4194303 + 1 * 2 ^ 32)]
     running s = true ∧ flag s MTP_MBX_BUSY = false ∧ flag s MTP_ID_OK = true ∧ refusal (createChecks s (creationOf s)) = none
       ∧ (creationOf s).rangeCount = 1 ∧ (creationOf s).winSize = 1 ∧ slatesRun s = true)
      ∧ slatesRun (mbx [(MTP_MODE_MODE, 3)]) = false
      ∧ (let s := mbx [mbxA 0 31, (fldAt KEY_SLOT_STATE 31 8, 1)]
         slotState s (bits (mbxArg s 0) 0 5) = 1 ∧ mbxRsv s 0 31 = false ∧ revokeOf s 31 = none ∧ s.xfers = [] ∧ s.apertureQ = []
           ∧ slatesRun s = true)
      ∧ (let s := mbx [mbxA 0 (31 + 31 * 2 ^ 8), mbxA 1 8191, mbxA 2 4194303]
         refusal (createChecks s (creationOf s)) = none ∧ (creationOf s).rangeCount = 0 ∧ (creationOf s).winSize = 0)
      ∧ (let s := mbx [mbxA 1 100]
         mbxRsv s 1 (2 ^ 32 - 1) = false ∧ 100 ≤ mbxArg s 1 % 2 ^ 32 ∧ mbxArg s 1 % 2 ^ 32 ≠ 0)
      ∧ (let s := mbx [mbxA 1 98304, mbxA 3 100, (inst LNK_STS_STATE 3, 5)]
         leader s = true ∧ linksDisabled s = false ∧ mbxRsv s 1 (2 ^ 32 - 1) = false ∧ mbxRsv s 3 (2 ^ 32 - 1) = false
           ∧ mbxArg s 1 % 2 ^ 32 = 98304 ∧ 100 ≤ mbxArg s 3 % 2 ^ 32 ∧ runSet s = false)
      ∧ (let s := mbx [(inst LNK_STS_STATE 3, 5)]
         leader s = true ∧ linksDisabled s = false ∧ mbxRsv s 1 (2 ^ 32 - 1) = false ∧ mbxRsv s 3 (2 ^ 32 - 1) = false
           ∧ mbxArg s 1 % 2 ^ 32 = 0 ∧ mbxArg s 3 % 2 ^ 32 = 0 ∧ runSet s = false)
      ∧ (let s := mbx [mbxA 1 65536]
         mbxRsv s 1 (2 ^ 32 - 1) = false ∧ (logImage s).length ≤ mbxArg s 1 % 2 ^ 32 ∧ canWrite s 0 = true) := by decide +kernel

def rvk : Revoke := ⟨31, true, [], false, 0, 0, true, true, [], []⟩
def revoking (r : Revoke) (rs : List (Fld × Nat)) : Machine.State :=
  { sets rs (wrapOf []) with trust := { trustZero with revokes := [r] } }

theorem witness_RevocationsDrainAndComplete :
    (let s := revoking rvk []
     running s = true ∧ revokeOf s 31 = some rvk ∧ revokeReady s rvk = true ∧ functionOf s 31 < 32 ∧ (∀ f ∈ rvk.flr, f < 32)
       ∧ revokeLate s rvk = false)
      ∧ revokeLate (revoking rvk [(FRM_CTL_RUN, 1), (FRM_FRAME, 3)]) rvk = true := by decide +kernel

/-- Queue 0 of the physical function holds one descriptor. -/
def queued (rs : List (Fld × Nat)) : Machine.State :=
  { sets ([(xqFld XPD_Q_EN 0, 1), (xqFld XPD_Q_TAIL 0, 1)] ++ rs) (mapped slate) with xqLatched := [(0, 1)] }

def copyDesc : DmaDesc := { desc0 with srcSpace := 1, dstSpace := 0, srcLen := 64, dstLen := 64 }
def peerDesc : DmaDesc := { copyDesc with dstSpace := 2, peer := 1, dstAddr := 0x4000 }
/-- EXPAND_FB of one factored block, EXPAND_CT, and COMPRESS of one block of one row of 32-bit codes. -/
def fbDesc : DmaDesc := { copyDesc with op := 2, blockCnt := 1 }
def ctDesc : DmaDesc := { copyDesc with op := 3, blockCnt := 1 }
def packDesc : DmaDesc := { copyDesc with op := 4, blockCnt := 1, srcLen := 0x10000, dstLen := 0x10000 }

/-! The records of a base image with the default values of 17 (offset, ALL, LSB, WIDTH, VALUE); the named ones cover every instance. -/

def baseRegs0 : List RegRec := [
  ⟨40, true, 0, 32, 0⟩, ⟨4136, true, 0, 32, 0⟩, ⟨4352, true, 2, 1, 0⟩, ⟨4360, true, 0, 2, 0⟩, ⟨4360, true, 2, 1, 0⟩,
  ⟨4368, true, 0, 17, 20000⟩, ⟨4376, true, 0, 8, 60⟩, ⟨4384, true, 0, 8, 16⟩, ⟨8232, true, 0, 32, 0⟩,
  ⟨8752, true, 0, 64, 9838263505978427492⟩, ⟨12328, true, 0, 32, 0⟩, ⟨12544, true, 0, 3, 1⟩, ⟨12544, true, 8, 8, 8⟩,
  ⟨12552, true, 8, 8, 32⟩, ⟨12560, true, 0, 64, 10349183707081863167⟩, ⟨12568, true, 0, 64, 1089641583808049023⟩,
  ⟨12576, true, 0, 48, 4423917505036⟩, ⟨12584, true, 0, 10, 400⟩, ⟨12584, true, 16, 12, 2048⟩, ⟨12592, true, 0, 4, 2⟩,
  ⟨12600, true, 0, 32, 65536⟩, ⟨16424, true, 0, 32, 0⟩, ⟨20520, true, 0, 32, 0⟩, ⟨24616, true, 0, 32, 0⟩, ⟨24832, true, 0, 1, 0⟩,
  ⟨28712, true, 0, 32, 0⟩, ⟨29184, true, 0, 6, 63⟩, ⟨29184, true, 8, 6, 63⟩, ⟨29184, true, 16, 6, 63⟩, ⟨29184, true, 24, 6, 63⟩,
  ⟨29184, true, 32, 6, 63⟩, ⟨29184, true, 40, 6, 63⟩, ⟨29184, true, 48, 6, 63⟩, ⟨29184, true, 56, 6, 63⟩, ⟨29192, true, 0, 6, 63⟩,
  ⟨29192, true, 8, 6, 63⟩, ⟨29192, true, 16, 6, 63⟩, ⟨29192, true, 24, 6, 63⟩, ⟨29192, true, 32, 6, 63⟩, ⟨29192, true, 40, 6, 63⟩,
  ⟨29192, true, 48, 6, 63⟩, ⟨29192, true, 56, 6, 63⟩, ⟨29200, true, 0, 6, 63⟩, ⟨29200, true, 8, 6, 63⟩]

def baseRegs1 : List RegRec := [
  ⟨29200, true, 16, 6, 63⟩, ⟨29200, true, 24, 6, 63⟩, ⟨29200, true, 32, 6, 63⟩, ⟨29200, true, 40, 6, 63⟩, ⟨29200, true, 48, 6, 63⟩,
  ⟨29200, true, 56, 6, 63⟩, ⟨29208, true, 0, 6, 63⟩, ⟨29208, true, 8, 6, 63⟩, ⟨29208, true, 16, 6, 63⟩, ⟨29208, true, 24, 6, 63⟩,
  ⟨29208, true, 32, 6, 63⟩, ⟨29208, true, 40, 6, 63⟩, ⟨29208, true, 48, 6, 63⟩, ⟨29208, true, 56, 6, 63⟩, ⟨29216, true, 0, 6, 63⟩,
  ⟨29216, true, 8, 6, 63⟩, ⟨29216, true, 16, 6, 63⟩, ⟨29216, true, 24, 6, 63⟩, ⟨29216, true, 32, 6, 63⟩, ⟨29216, true, 40, 6, 63⟩,
  ⟨29216, true, 48, 6, 63⟩, ⟨29216, true, 56, 6, 63⟩, ⟨29224, true, 0, 6, 63⟩, ⟨29224, true, 8, 6, 63⟩, ⟨29224, true, 16, 6, 63⟩,
  ⟨29224, true, 24, 6, 63⟩, ⟨29224, true, 32, 6, 63⟩, ⟨29224, true, 40, 6, 63⟩, ⟨29224, true, 48, 6, 63⟩, ⟨29224, true, 56, 6, 63⟩,
  ⟨29232, true, 0, 6, 63⟩, ⟨29232, true, 8, 6, 63⟩, ⟨29232, true, 16, 6, 63⟩, ⟨29232, true, 24, 6, 63⟩, ⟨29232, true, 32, 6, 63⟩,
  ⟨29232, true, 40, 6, 63⟩, ⟨29232, true, 48, 6, 63⟩, ⟨29232, true, 56, 6, 63⟩, ⟨29240, true, 0, 6, 63⟩, ⟨29240, true, 8, 6, 63⟩,
  ⟨29240, true, 16, 6, 63⟩, ⟨29240, true, 24, 6, 63⟩, ⟨29240, true, 32, 6, 63⟩, ⟨29240, true, 40, 6, 63⟩]

def baseRegs2 : List RegRec := [
  ⟨29240, true, 48, 6, 63⟩, ⟨29240, true, 56, 6, 63⟩, ⟨32808, true, 0, 32, 0⟩, ⟨33024, true, 0, 2, 2⟩, ⟨33024, true, 2, 1, 1⟩,
  ⟨33024, true, 3, 2, 2⟩, ⟨36904, true, 0, 32, 0⟩, ⟨37120, true, 0, 2, 0⟩, ⟨37120, true, 8, 8, 3⟩, ⟨37144, true, 0, 16, 50⟩,
  ⟨37144, true, 16, 16, 200⟩, ⟨41000, true, 0, 32, 0⟩, ⟨45096, true, 0, 32, 0⟩, ⟨49192, true, 0, 32, 0⟩, ⟨53288, true, 0, 32, 0⟩,
  ⟨53504, true, 0, 11, 60⟩, ⟨53512, true, 0, 16, 20⟩, ⟨53512, true, 16, 4, 2⟩, ⟨53512, true, 24, 8, 12⟩, ⟨53520, true, 8, 8, 15⟩,
  ⟨57384, true, 0, 32, 0⟩, ⟨57600, true, 0, 12, 3000⟩, ⟨57608, true, 0, 10, 550⟩, ⟨57616, true, 0, 10, 100⟩, ⟨61480, true, 0, 32, 0⟩,
  ⟨61704, true, 0, 8, 100⟩, ⟨61704, true, 8, 4, 5⟩, ⟨65576, true, 0, 32, 0⟩, ⟨69672, true, 0, 32, 0⟩, ⟨69944, true, 0, 8, 4⟩,
  ⟨69944, true, 8, 16, 64⟩, ⟨69944, true, 24, 1, 0⟩, ⟨73768, true, 0, 32, 0⟩, ⟨131112, true, 0, 32, 0⟩, ⟨196648, true, 0, 32, 0⟩,
  ⟨196864, true, 0, 1, 0⟩, ⟨196896, false, 0, 4, 0⟩, ⟨196896, false, 4, 4, 0⟩, ⟨196896, false, 8, 4, 0⟩, ⟨196896, false, 12, 4, 0⟩,
  ⟨196904, true, 0, 16, 16⟩, ⟨262184, true, 0, 32, 0⟩, ⟨524328, true, 0, 32, 0⟩, ⟨524544, true, 0, 64, 7594299691592922925⟩]

def baseRegs3 : List RegRec := [
  ⟨524552, true, 0, 64, 578730282283188288⟩, ⟨524568, true, 0, 16, 2048⟩, ⟨524576, true, 0, 8, 24⟩, ⟨655400, true, 0, 32, 0⟩,
  ⟨786472, true, 0, 32, 0⟩, ⟨786704, true, 0, 8, 40⟩, ⟨786712, true, 0, 3, 4⟩, ⟨786720, true, 0, 8, 64⟩, ⟨786720, true, 8, 8, 64⟩,
  ⟨917544, true, 0, 32, 0⟩, ⟨917760, true, 0, 6, 40⟩, ⟨917760, true, 8, 6, 40⟩, ⟨917760, true, 16, 6, 40⟩, ⟨917760, true, 24, 6, 40⟩,
  ⟨917760, true, 32, 6, 40⟩, ⟨917760, true, 40, 6, 40⟩, ⟨917760, true, 48, 6, 40⟩, ⟨917760, true, 56, 6, 40⟩, ⟨917768, true, 0, 6, 40⟩,
  ⟨917768, true, 8, 6, 40⟩, ⟨917768, true, 16, 6, 40⟩, ⟨917768, true, 24, 6, 40⟩, ⟨917768, true, 32, 6, 40⟩, ⟨917768, true, 40, 6, 40⟩,
  ⟨917768, true, 48, 6, 40⟩, ⟨917768, true, 56, 6, 40⟩, ⟨917776, true, 0, 6, 40⟩, ⟨917776, true, 8, 6, 40⟩, ⟨917776, true, 16, 6, 40⟩,
  ⟨917776, true, 24, 6, 40⟩, ⟨917776, true, 32, 6, 40⟩, ⟨917776, true, 40, 6, 40⟩, ⟨917776, true, 48, 6, 40⟩, ⟨917776, true, 56, 6, 40⟩,
  ⟨917784, true, 0, 6, 40⟩, ⟨917784, true, 8, 6, 40⟩, ⟨917784, true, 16, 6, 40⟩, ⟨917784, true, 24, 6, 40⟩, ⟨917784, true, 32, 6, 40⟩,
  ⟨917784, true, 40, 6, 40⟩, ⟨917784, true, 48, 6, 0⟩, ⟨917784, true, 56, 6, 0⟩, ⟨917816, true, 0, 16, 256⟩]

def baseRegs : List RegRec := baseRegs0 ++ baseRegs1 ++ baseRegs2 ++ baseRegs3
/-- A field of a page's first instance, in the instance `d` bytes above it. -/
def shiftHit (b d : Nat) (h : Hit) : Hit := { h with base := b, fld := { h.fld with addr := h.fld.addr + d } }

theorem rowHits_shift (p : Page) (d r a : Nat) (sp : Spec) :
    rowHits p (p.base + d) r a sp = (rowHits p p.base r a sp).map (shiftHit (p.base + d) d) := by
  unfold rowHits
  rw [apply_ite (List.map _), apply_ite (List.map _), List.map_nil, List.map_map]
  congr 2; congr 1; funext j
  simp only [Function.comp, shiftHit]
  split <;> simp only [Hit.mk.injEq, Fld.mk.injEq, true_and, and_true] <;> omega

theorem specHits_shift (p : Page) (d a : Nat) (sp : Spec) :
    specHits p (p.base + d) a sp = (specHits p p.base a sp).map (shiftHit (p.base + d) d) := by
  simp only [specHits, List.map_flatMap, rowHits_shift]

/-- A record names the field of the first instance; it stands for every instance where the field is one of each. -/
def namedBy (regs : List RegRec) (h : Hit) : Bool :=
  (h.spec.cfg ≠ .named && h.spec.cfg ≠ .named0)
    || regs.any fun r => (r.all || h.spec.cfg = .named0) && r.lsb = h.fld.lsb && r.off = h.fld.addr

def pageOwn (p : Page) : List Hit :=
  (specsHeader.flatMap fun sp => specHits p p.base sp.fld.addr sp) ++ p.specs.flatMap fun sp => specHits p p.base (sp.fld.addr - p.base) sp

theorem pageHits_shift {p : Page} {d b : Nat} (h : pageAt (p.base + d) = some (p, b)) (hb : b = p.base + d) :
    pageHits (p.base + d) = (pageOwn p).map (shiftHit (p.base + d) d) := by
  subst hb
  simp only [pageHits, h, pageOwn, List.map_append, List.map_flatMap, specHits_shift]

theorem pages_alone : pages.all (fun p => pages.all fun q => p.base ≠ q.base || p = q) = true := by decide +kernel

theorem pages_found : pages.all (fun p => (List.range p.insts).all fun n =>
    (pageAt (p.base + 0x1000 * n)).any fun q => q.1.base = p.base && q.2 = p.base + 0x1000 * n) = true := by decide +kernel

theorem pageAt_inst {p : Page} (hp : p ∈ pages) {n : Nat} (hn : n < p.insts) :
    pageAt (p.base + 0x1000 * n) = some (p, p.base + 0x1000 * n) := by
  have h := List.all_eq_true.1 (List.all_eq_true.1 pages_found p hp) n (List.mem_range.2 hn)
  obtain ⟨q, hq, e⟩ := (Option.any_eq_true _ _).1 h
  simp only [Bool.and_eq_true, decide_eq_true_eq] at e
  have hm : q.1 ∈ pages := by
    simp only [pageAt, Option.map_eq_some_iff] at hq
    obtain ⟨x, hx, rfl⟩ := hq
    exact List.mem_of_find?_eq_some hx
  have := List.all_eq_true.1 (List.all_eq_true.1 pages_alone q.1 hm) p hp
  simp only [Bool.or_eq_true, decide_eq_true_eq, ne_eq, e.1, not_true_eq_false, false_or] at this
  rw [hq]; exact congrArg some (Prod.ext this e.2)

theorem namesAll_of {regs : List RegRec} (h : pages.all (fun p => (pageOwn p).all (namedBy regs)) = true) : namesAll regs = true := by
  refine List.all_eq_true.2 fun p hp => List.all_eq_true.2 fun n hn => List.all_eq_true.2 fun x hx => ?_
  have at_ := pageAt_inst hp (List.mem_range.1 hn)
  rw [pageHits_shift at_ rfl, List.mem_map] at hx
  obtain ⟨y, hy, rfl⟩ := hx
  have c := List.all_eq_true.1 (List.all_eq_true.1 h p hp) y hy
  simp only [namedBy, Bool.or_eq_true, Bool.and_eq_true, decide_eq_true_eq, List.any_eq_true] at c
  simp only [shiftHit, Bool.or_eq_true, Bool.and_eq_true, decide_eq_true_eq]
  rcases c with c | ⟨r, hr, ⟨hall, hl⟩, ho⟩
  · exact .inl ⟨decide_eq_true c.1, .inl (decide_eq_true c.2)⟩
  · by_cases z : y.spec.cfg = .named0 ∧ n ≠ 0
    · exact .inl ⟨by simp [z.1], .inr (by simpa using z.2)⟩
    · refine .inr ?_
      have nm : recNames (p.base + 0x1000 * n) { y.fld with addr := y.fld.addr + 0x1000 * n } r = true := by
        simp only [recNames, at_, hl, ho]
        by_cases ra : r.all = true
        · simp [ra]
        · have : n = 0 := by
            rcases hall with a | a
            · exact absurd a ra
            · exact Classical.byContradiction fun k => z ⟨a, k⟩
          simp [ra, this]
      unfold imageValue
      split
      · rfl
      · rw [Option.isSome_map, List.find?_isSome]
        exact ⟨r, hr, nm⟩

/-- Each operation's descriptor may start on queue 0 and passes its checks; so does a COPY to a peer. -/
theorem witness_DescriptorsRunToTheirEnd :
    running (queued []) = true ∧ dmaStarts (queued []) 0 0 = true ∧ xqEngineOf (queued []) 0 0 < 16
      ∧ ([copyDesc, fbDesc, ctDesc, packDesc].all fun d => refusal (descChecks (queued []) 0 d) = none && !descEmpty (ownPeer (queued []) d)
          && (ownPeer (queued []) d).srcSpace ≠ 2 && (ownPeer (queued []) d).dstSpace ≠ 2) = true
      ∧ failedUnits (queued []) ⟨0, 0, copyDesc, [], [], []⟩ (ownPeer (queued []) copyDesc) = []
      ∧ (let s := queued [(KEY_TORUS_HELD, 1), (LNK_TOPO_NX_M1, 1)]
         dmaStarts s 0 0 = true ∧ refusal (descChecks s 0 peerDesc) = none ∧ descEmpty (ownPeer s peerDesc) = false
           ∧ (ownPeer s peerDesc).dstSpace = 2)
      ∧ descHeld (queued []) (ownPeer (queued []) copyDesc) = none
      ∧ refusal (descChecks (queued []) 0 { copyDesc with devBits := true }) = some stBadField
      ∧ (let d := { copyDesc with srcLen := 0, dstLen := 0 }; refusal (descChecks (queued []) 0 d) = none ∧ descEmpty (ownPeer (queued []) d) = true)
      ∧ (let s : Machine.State := { queued [(inst BNK_MODE_PROC 0, 1)] with
           objs := [(1, boardObj), (5, { objZero with st := .package, cls := 4, base := 0x200000, size := 1, chMask := 1, stMask := 1, bands := [40] })]
           xlat := [(0, ⟨.board, true, false, false, 1, 0, 0⟩), (1, ⟨.stack, false, false, false, 5, 40, 0⟩)] }
         let d := { copyDesc with srcAddr := 0x200000 }
         refusal (descChecks s 0 d) = none ∧ descHeld s (ownPeer s d) = some 0) := by
  decide +kernel

theorem witness_HeldRecordsAreWrittenWhenThereIsRoom :
    (let s : Machine.State := { sets [(PCI_EVR_EN, 1), (PCI_EVR_SIZE, 1), (PCI_EVT_EN, 1)] R with
       fns := [(0, { host with hold := [⟨1, 0, 0, 0, 0⟩, ⟨2, 0, 0, 0, 0⟩], holdoff := true, covered := true })] }
     running s = true ∧ (fnOf s 0).hold ≠ [] ∧ evrOpen s 0 = true
       ∧ ringUsed (rd s 0 PCI_EVR_HEAD) (rd s 0 PCI_EVR_TAIL) + (fnOf s 0).hold.length = 2 ^ rd s 0 PCI_EVR_SIZE
       ∧ (fnOf s 0).holdoff = true ∧ (fnOf s 0).covered = true ∧ rd s 0 PCI_EVT_EN = 1
       ∧ rd s 0 (fldAt MSIX_MASK (rd s 0 PCI_EVT_VECTOR) 16) ≠ 1 ∧ canWrite s 0 = true)
      ∧ (let s : Machine.State := { sets [(ERL_RING_EN, 1)] R with fns := [(0, host)], erl := ⟨1, [List.replicate 64 0], 0, []⟩ }
         s.erl.hold ≠ [] ∧ erlOpen s = true
           ∧ ringUsed (rd0 s ERL_RING_HEAD) (rd0 s ERL_RING_TAIL) + s.erl.hold.length = 2 ^ rd0 s ERL_RING_SIZE)
      ∧ (let s : Machine.State := { sets [(PCI_EVR_EN, 1), (PCI_EVT_EN, 1), (fldAt MSIX_MASK 0 16, 1)] R with
           fns := [(0, { host with hold := [⟨1, 0, 0, 0, 0⟩, ⟨2, 0, 0, 0, 0⟩], holdoff := true, covered := true })] }
         evrOpen s 0 = true ∧ rd s 0 PCI_EVR_HEAD < 2 ^ 32 ∧ rd s 0 PCI_EVR_TAIL < 2 ^ 32 ∧ rd s 0 PCI_EVR_SIZE < 32
           ∧ 2 ^ rd s 0 PCI_EVR_SIZE - ringUsed (rd s 0 PCI_EVR_HEAD) (rd s 0 PCI_EVR_TAIL) = 1 ∧ rd s 0 PCI_EVT_VECTOR = 0
           ∧ rd s 0 (fldAt MSIX_MASK (rd s 0 PCI_EVT_VECTOR) 16) = 1)
      ∧ evrOpen R 31 = false ∧ erlOpen R = false
      ∧ (fnOf { R with fns := [(31, { fnZero with holdoff := true })] } 31).covered = false := by decide +kernel

/-- A DAILY object of one granule in band 40 of the first bank set. -/
def dailyObj : Obj := { objZero with st := .package, cls := 0, prot := true, size := 1, chMask := 1, stMask := 1, digestAddr := 0x400000, bands := [40] }

/-- A row of two devices, this one at 0; ports 0 and 3 are ACTIVE. -/
def linked (s : Machine.State) : Machine.State := sets [(LNK_TOPO_NX_M1, 1), (inst LNK_STS_STATE 0, 5), (inst LNK_STS_STATE 3, 5)] s
def pktTo (op : BitVec 4) (dst : BitVec 4) (data : Bytes) : Packet := { pkt0 with op := op, dst := dst, src := 1, data := data, addr := 0x1000, outAddr := 0x1000 }

theorem arrives_linked (op : BitVec 4) (dst : BitVec 4) (data : Bytes) : Arrives (linked (mapped slate)) 3 (pktTo op dst data) op.toNat :=
  ⟨by decide +kernel, by decide, by decide +kernel, rfl, by simp [revoked, revokeOf, linked, mapped, slate, sets, trustZero, State.reset, wr0, wr,
    pktTo]⟩

def xfer0 (waiting write : Bool) : PeerXfer := ⟨0, 0, 0, { peerDesc with srcSpace := 2, dstSpace := 1, dstAddr := 0x1000 }, write, [], waiting, [],
  0, 0, none⟩

theorem witness_TransferPacketsActAtTheirDestination :
    (let s := linked (mapped slate)
     isMine s (pktTo 1 1 [1]) = false ∧ routePort s (pktTo 1 1 [1]) = some 0 ∧ lnkState s 0 = lnkActive
       ∧ isMine s (pktTo 1 0 [1]) = true ∧ (pktTo 1 0 [1]).tagOk = true
       ∧ routePort s (answer (pktTo 2 0 []) 3 [0]) = some 0
       ∧ (let p := pktTo 4 0 (leBytes 8 64 ++ [1])
          refusal (peerChecks s (packetKey p) p.addr.toNat (leNat (p.data.take 8)) false) = none)
       ∧ (let p := pktTo 4 0 (leBytes 8 (2 ^ 22) ++ [1])
          refusal (peerChecks s (packetKey p) p.addr.toNat (leNat (p.data.take 8)) false) ≠ none)
       ∧ (pktTo 6 0 [0, 0, 0, 0]).redOp ≠ 3 ∧ (pktTo 6 0 [0, 0, 0, 0]).data.length % 4 = 0
       ∧ bit ({ pktTo 6 1 [0, 0, 0, 0] with members := 1 } : Packet).members.toNat (devIndex s) = true)
      ∧ (let s : Machine.State := { linked (mapped slate) with xfers := [xfer0 false false] }
         xferOf s (pktTo 3 0 [1]) = some (xfer0 false false))
      ∧ (let s : Machine.State := { linked (mapped slate) with xfers := [xfer0 true true] }
         xferOf s (pktTo 5 0 [0]) = some (xfer0 true true) ∧ leNat ((pktTo 5 0 [0]).data.take 1) = stOk)
      ∧ (let s : Machine.State := { linked (mapped slate) with xfers := [xfer0 false true] }
         xferOf s (pktTo 5 0 [0]) = some (xfer0 false true) ∧ (xfer0 false true).waiting = false)
      ∧ (let s := linked (mapped slate)
         ([Instr.pktWrite 3 (pktTo 1 0 [1]), .pktReadReq 3 (pktTo 2 0 []), .pktReadResp 3 (pktTo 3 0 [1]), .pktCheck 3 (pktTo 4 0 [1]),
           .pktReduce 3 (pktTo 6 0 [0, 0, 0, 0])].all fun c => (heldKey s c).isNone) = true
         ∧ isMine s { pktTo 6 1 [0, 0, 0, 0] with members := 1 } = false ∧ routePort s { pktTo 6 1 [0, 0, 0, 0] with members := 1 } = some 0
         ∧ ({ pktTo 1 0 [1] with tagOk := false, tc := 1 } : Packet).tagOk = false ∧ (pktTo 1 0 [1]).tc ≠ 1
         ∧ f32Key 0x3F800000 ≠ 0 ∧ f32IsNan 0x3F800000 = false)
      ∧ (let s : Machine.State := { sets [(inst BNK_MODE_PROC 0, 1)] (linked slate) with objs := [(5, dailyObj)], xlat := [(0, ⟨.stack, false,
        false, false, 5, 40, 0⟩)] }
         heldKey s (.pktWrite 3 (pktTo 1 0 [1])) = some 4) := by decide +kernel

def rvk0 : Revoke := ⟨0, false, [], true, 0, 0, true, false, [1], []⟩

theorem witness_ControlPacketsAndFlitsAct :
    (let s := linked (mapped slate)
     running s = true ∧ lnkState s 3 = lnkActive ∧ isMine s (pktTo 9 0 [0]) = true ∧ leader s = true ∧ slotState s 0 = 1 ∧ slatesRun s = true
       ∧ s.xfers = []
       ∧ slotState s 31 ≠ 1 ∧ routePort s (control 10 1 (leBytes 8 31)) = some 0 ∧ revokeOf s 0 = none ∧ s.apertureQ = []
       ∧ isMine s (pktTo 8 1 []) = false ∧ routePort s (pktTo 8 1 []) = some 0 ∧ lnkState s 0 = lnkActive
       ∧ s.frame.participants.any (·.dev = 1) = false ∧ bit (leNat (slice (leBytes 16 (2 ^ 72)) 8 8)) 8 = true)
      ∧ (let s : Machine.State := { linked (mapped slate) with frame := { frameZero with participants := [⟨1, false, 3⟩] } }
         s.frame.participants.any (·.dev = (pktTo 8 0 []).src.toNat) = true)
      ∧ (let s : Machine.State := { linked R with trust := { trustZero with revokes := [{ rvk0 with drained := true }] } }
         revokeOf s 0 = some { rvk0 with drained := true } ∧ ({ rvk0 with drained := true } : Revoke).drained = true)
      ∧ bits ({ pktTo 7 0 (List.replicate 24 0) with members := 1 } : Packet).members.toNat 0 4 ≠ 0
      ∧ leader (sets [(FRM_CFG_ROLE, 1), (FRM_CFG_SRC, 2)] (linked (mapped slate))) = false
      ∧ (let s : Machine.State := { linked R with trust := { trustZero with revokes := [rvk0] } }
         Arrives s 3 { pktTo 9 0 [0] with keySel := true } 9 ∧ revokeOf s (leNat ([0] : Bytes) % 32) = some rvk0 ∧ rvk0.drained = false
           ∧ isMine s (pktTo 9 0 [0]) = true)
      ∧ ((0#4) = 0 ∧ 11 ≤ (11#4).toNat)
      ∧ (let x : PortSt := { portZero with asked := 7, askedRun := 7 }
         (if x.asked = (7#12).toNat then x.askedRun + 1 else 1) = 8) := by
  refine ⟨by decide +kernel, by decide, by decide +kernel, by decide, by decide +kernel, ⟨?_, by decide +kernel⟩, by decide, by decide⟩
  exact ⟨by decide +kernel, by decide, by decide +kernel, rfl, rfl⟩

def portIn (st : Nat) (x : PortSt) : Machine.State := { sets [(inst LNK_STS_STATE 3, st)] R with portSt := [(3, x)] }

theorem witness_LinksTrainByTheTable :
    running R = true ∧ machLookup (trainingTable R) 0 2 = none ∧ ((machLookup (trainingTable R) 1 2).any fun r => r.next < 8 && r.action ≠ 3) = true
      ∧ ((machLookup (trainingTable R) 3 5).any fun r => r.next < 8 && r.action = 3) = true ∧ runSet (sets [(FRM_CTL_RUN, 1)] R) = true
      ∧ mapGet R.cfg.mach 2 = none ∧ lnkState R 3 = 0 ∧ flag R (inst LNK_CTL_EN 3) = false
      ∧ (let s := sets [(inst LNK_CTL_EN 3, 1)] R; flag s (inst LNK_CTL_EN 3) = true ∧ runSet s = false)
      ∧ (lnkState (portIn 1 portZero) 3 = 1 ∧ popcount 48 (0xFFF#48).toNat = 12)
      ∧ lnkState (portIn 2 portZero) 3 = 2 ∧ lnkState (portIn 4 portZero) 3 = 4 ∧ lnkState (portIn 5 portZero) 3 = 5
        ∧ lnkState (portIn 6 portZero) 3 = 6
      ∧ (let s := portIn 3 { portZero with converged := 2 ^ 48 - 1 }
         lnkState s 3 = 3 ∧ chooseLanes (goodLanes (portOf s 3) &&& (0xFFFFFFFFFFFF#48).toNat) = some (3, 0, 48)
           ∧ chooseLanes (goodLanes (portOf s 3) &&& (0xFFF000000000#48).toNat) = some (1, 36, 12)
           ∧ chooseLanes (goodLanes (portOf s 3) &&& (0x7FF000000000#48).toNat) = none) := by decide +kernel

/-- A Roll with one micro-batch of one token, on a resident reel whose first stage has this kind; every other stage has run. -/
def stageG (kind : Nat) : Stage := ⟨kind, 0, 0, false, false, 0, 0, 0, 1, 2, 0, 0, 0, 0, 0, 0, 0, 0, 0⟩
def staged (gs : List Stage) : Machine.State :=
  { roll with
    reels := [(0, { reelZero with st := .resident, vocab := 10, stages := gs, attn := [(0, { attnZero with kvHeads := 1 })], arrays := [(63, 0,
      0)] })]
    entries := [(8191, { entryZero with st := .decoding, lenTent := 1, pendTok := 9 })]
    acts := [(actKey 0 5 8191 4194303, [0x3F800000, 0x40000000]), (actKey 0 6 8191 4194303, [0x40400000, 0])]
    resid := [(actKey 0 0 8191 4194303, [0x3F800000, 0])], routes := [(actKey 0 6 8191 4194303, [(0, 0x3F800000)])]
    plan := { planZero with micros := [⟨0, 0, [(8191, 4194303)]⟩], planned := [⟨8191, false, 4194303, true, 1, [], 0, false⟩] } }

/-- A stage's work that takes the outputs of stages 5 and 6. -/
def from56 : StageIn := ⟨0, 0, 0, [5, 6], 0, 0, 0, false, 0⟩
def from5 : StageIn := { from56 with src := [5] }
def from0 : StageIn := { from56 with src := [] }

/-- An object of 32 granules, and one page of the entry in it: a memory channel in processor mode holds the entry's attention. -/
def heldPage : Machine.State :=
  { sets [(inst BNK_MODE_PROC 31, 1)] (staged [stageG kAttn]) with
    objs := [(9, { objZero with st := .package, cls := 3, layout := 1, size := 32, chMask := 1, stMask := 2 ^ 32 - 1, nps := 1, bands := [0] })]
    xlat := (List.range 32).map fun k => (k, ⟨.stack, false, false, false, 9, 0, 0⟩)
    entries := [(8191, { entryZero with st := .decoding, pages := [⟨9, 0, false, 0⟩] })] }

theorem planOnce_staged (gs : List Stage) : PlanOnce (staged gs) := by
  refine ⟨show [((8191, 4194303) : Nat × Nat)].Nodup by decide, ?_⟩
  intro m hm t ht
  cases List.mem_singleton.1 (hm : m ∈ [⟨0, 0, [(8191, 4194303)]⟩])
  cases List.mem_singleton.1 ht
  decide

theorem arraysExist_staged (gs : List Stage) : ArraysExist (staged gs) from56 := by
  refine ⟨fun a ha => ?_, by decide⟩
  cases List.mem_singleton.1 (ha : a ∈ [((63, 0, 0) : Nat × Nat × Nat)])
  decide

theorem witness_StagesPropagateTheirTokens :
    running (staged []) = true ∧ PlanOnce (staged []) ∧ ArraysExist (staged []) from56
      ∧ ([kEmbed, kNorm, kSample].all fun k => (jobOf (staged [stageG k]) from0 k).isSome) = true ∧ from0.tileUe < 2
      ∧ ([kProj, kRope, kAttn, kResid, kRoute, kLmhead].all fun k => (jobOf (staged [stageG k]) from5 k).isSome) = true
      ∧ ([kAct, kExpert, kCombine].all fun k => (jobOf (staged [stageG k]) from56 k).isSome) = true
      ∧ (jobOf (staged [stageG kLmhead]) from0 kLmhead).isSome = true
      ∧ ((jobOf (staged [stageG kProj]) from5 kProj).all fun j => inputOf (staged [stageG kProj]) j (8191, 4194303) = some [0x3F800000,
        0x40000000]) = true
      ∧ (let g := { stageG kProj with wBytes := 1 }
         ((jobNamed (staged [g]) from5 kProj).all fun j => !weightsReady (staged [g]) from5 j.g) = true
           ∧ (jobNamed (staged [g]) from5 kProj).isSome = true)
      ∧ (staged []).frame.failed = false ∧ 2 ≤ ({ stage0 with tileUe := 2 } : StageIn).tileUe
      ∧ (jobOf (staged [stageG kNorm]) { stage0 with tileUe := 2, slotUe := true } kNorm).isSome = true
      ∧ ((tokenId (staged [stageG kEmbed]) 10 [] 8191 4194303).toOption = some 9)
      ∧ (let p : Planned := ⟨8191, true, 4194303, false, 1, [], 0, false⟩
         let s : Machine.State := { staged [stageG kEmbed] with plan := { (staged []).plan with planned := [p] } }
         (tokenId s 9 [⟨8191, [some 9]⟩] 8191 4194303).toOption = none ∧ (tokenId s 10 [⟨8191, [some 9]⟩] 8191 4194303).toOption = some 9
           ∧ 8191 ∉ s.plan.tokFaults ∧ s.plan.faults = [])
      ∧ ((jobOf (staged [stageG kAttn]) from5 kAttn).all fun j => pairOf j 0 = 0 && (attnOf j).kvHeads = 1 && splitOf (attnOf j) = 1
          && (attnHeld (staged [stageG kAttn]) j).isNone && j.mb.toks.any (·.1 = 8191) && !walked (staged [stageG kAttn]) j 8191 0 0) = true
      ∧ ((jobOf heldPage from5 kAttn).map (attnHeld heldPage)) = some (some (bankKey 31 0 0))
      ∧ (let s : Machine.State := { staged [stageG kSample] with logits := [(actKey 0 0 8191 4194303, [0x3F800000])] }
         s.plan.planned.filter (·.entry = 8191) = s.plan.planned ∧ s.plan.sampled = [] ∧ s.plan.faults = []
           ∧ (emit s 8191 0 [] 4194303 ⟨8191, [], 0, 0, false, 0⟩).isSome = true) := by
  refine ⟨by decide +kernel, planOnce_staged _, arraysExist_staged _, by decide +kernel, by decide +kernel, by decide +kernel, by decide +kernel, ?_⟩
  decide +kernel

/-- A program with one placement record, for bank 0 of channel 0 of stack 0; the shot list gives its stage that channel. -/
def placed : Machine.State :=
  { sets [(fldAt UMR_STREAM_SLOTS 0 8, 1)] (mapped roll) with
    reels := [(0, { reelZero with st := .resident, stages := [{ stageG kProj with progAddr := 0x2000 }, { stageG kProj with streamed := true }] })]
    plan := { planZero with channels := [(0, 0, 0, 1)], micros := [⟨0, 0, [(0, 0)]⟩] }
    work := { workZero with ran := [(0, 0, 0)] }
    board := [(0x2008, 1), (0x2031, 0x30)] }

def run0 : RunIn := ⟨0, 0, 1, false⟩

theorem witness_PrefetchModesAndCollectionsAct :
    (∃ g, (reelOf placed 0).stages[1]? = some g ∧ g.streamed = true) ∧ (reelOf placed 0).st = .resident ∧ placed.frame.phase = .roll
      ∧ repairingIn placed 0 0 = false
      ∧ streamHeld placed 0 (streamIndex (reelOf placed 0) 1 % max (rd0 placed (fldAt UMR_STREAM_SLOTS 0 8)) 1) = false
      ∧ prefetchDue placed 0 1 = true ∧ prefetchDue { placed with work := workZero } 0 1 = false
      ∧ ((reelOf placed 0).stages[0]?.map (·.progAddr)) = some 0x2000 ∧ ((placements placed (progHead placed 0x2000)).map (·.key)) = [0]
      ∧ ((placements placed (progHead placed 0x2000)).map (·.chan)) = [0] ∧ bit (1#32).toNat 0 = true
        ∧ bit (rd0 placed (inst BNK_MODE_PROC 0)) 0 = false
      ∧ bit (plannedChans placed run0 0) 0 = true ∧ switchPoint placed run0 = true
      ∧ switchPoint { placed with frame := { placed.frame with phase := .slate } } run0 = false
      ∧ chanIdle R 31 29 = true ∧ R.apertureQ = []
      ∧ (let s : Machine.State := { placed with
           units := [(0, { unitZero with running := true, p0 := true, offered := some 0 })], colls := [(0, { collZero with ready := [0] })]
           runs := [⟨0, 0, 0, 0, [], false, 0, 1, []⟩] }
         (readyGroup s (collOf s 0).ready).isSome = true ∧ chanIdle s 0 0 = false
           ∧ (s.runs.find? (unitInRun (unitOf s 0))).isSome = true ∧ (progHead s 0x2000).back.getD 0 false = false)
      ∧ readyGroup R (collOf R 31).ready = none
      ∧ (let s : Machine.State := { sets [(inst BNK_MODE_PROC 0, 1)] R with apertureQ := [.zero (.hub u0 98303)] }
         heldKey { s with apertureQ := [] } (.zero (.hub u0 98303)) = some 0 ∧ heldKey R (.zero (.hub u0 98303)) = none) := by
  refine ⟨⟨{ stageG kProj with streamed := true }, rfl, rfl⟩, ?_⟩
  decide +kernel

/-- A unit of a processor channel with the instruction at its PC, the phase-0 input of its run delivered; W is 2, its window holds four rows. -/
def unitIn (c : Code) : Machine.State :=
  { unitAt c { unitZero with winRows := 4, limit := 65536 } with
    runs := [⟨0, 0, 0, 0, [], false, 0, 1, []⟩], frame := { frameZero with phase := .roll, kind := .frame } }

/-- Banks of the privileged channels run test programs in DIAGNOSTIC mode. -/
def tested : Machine.State := sets [(MTP_MODE_MODE, 2)] R

def runsIn (s : Machine.State) (u : BankId) (c : Code) : Bool :=
  running s && unitExists u && executes (unitState s u) (bankOf u) c && !waits (unitState s u) (bankOf u) (unitNow s u) c
    && (faultOf (unitState s u) (bankOf u) (unitNow s u) c).isNone

theorem runs_of {s : Machine.State} {u : BankId} {c : Code} (h : runsIn s u c = true) : UnitRuns s u c := by
  simp only [runsIn, Bool.and_eq_true, Bool.not_eq_true', Option.isNone_iff_eq_none] at h
  exact ⟨h.1.1.1.1, h.1.1.1.2, h.1.1.2, h.1.2, h.2⟩

theorem witness_UnitControlAndScalarInstructions :
    ([Code.nop, .rwait 7, .waitin 0, .halt, .rep 15 31, .bnz 15 0x1FF, .collect 15 7, .setw 5, .smov 15 0x100, .sadd 15 14 13, .saddi 15 14 1,
      .smul 1 2 3,
      .sparam 15 3].all fun c => runsIn (unitIn c) u0 c) = true
      ∧ ([Code.halt, .collect 0 0, .setw 6, .setw 7, .sparam 0 4, .sparam 0 511].all fun c => runsIn tested uLast c) = true
      ∧ (unitNow (unitIn (.waitin 1)) u0).phase < (1#1).toNat ∧ u0.chan < 30
      ∧ ({ unitIn (.waitin 0) with runs := [] } : Machine.State).runs.any (unitInRun (unitNow { unitIn (.waitin 0) with runs := [] } u0)) = false
      ∧ sGet (unitNow (unitIn .nop) u0) 0 = 0 ∧ sGet (unitNow (unitAt .nop { unitZero with limit := 9, s := [(0, 1)] }) u0) 0 ≠ 0
      ∧ (let s := unitIn .halt
         bit (mapGetD s.switchDue 0 0) 0 = false ∧ s.runs.find? (unitInRun (unitNow s u0)) = some ⟨0, 0, 0, 0, [], false, 0, 1, []⟩
           ∧ s.frame.phase = .roll
           ∧ (s.units.any fun v => v.1 ≠ 0 && v.2.running && bankChan v.1 < 30 && unitInRun v.2 ⟨0, 0, 0, 0, [], false, 0, 1, []⟩) = false)
      ∧ (let s : Machine.State := { unitIn .halt with runs := [⟨0, 0, 0, 0, [], false, 0, 1, [[[1]]]⟩] }
         runIsExpert s ⟨0, 0, 0, 0, [], false, 0, 1, [[[1]]]⟩ = false ∧ s.runs.find? (unitInRun (unitNow s u0)) = s.runs.head?)
      ∧ (let s : Machine.State := { unitIn .halt with units := (unitIn .halt).units ++ [(1, { unitZero with running := true })] }
         (s.units.any fun v => v.1 ≠ 0 && v.2.running && bankChan v.1 < 30 && unitInRun v.2 ⟨0, 0, 0, 0, [], false, 0, 1, []⟩) = true)
      ∧ (let s : Machine.State := { unitIn .halt with runs := [], switchDue := [(0, 1)] }
         bit (mapGetD s.switchDue 0 0) 0 = true ∧ s.runs.find? (unitInRun (unitNow s u0)) = none ∧ s.apertureQ = []
           ∧ (∀ b < 32, bankKey 0 0 b ≠ 0 → (unitOf s (bankKey 0 0 b)).running = false) ∧ runsIn s u0 .halt = true)
      ∧ (let s := unitAt .nop unitZero
         executes (unitState s u0) 0 .nop = true ∧ (faultOf (unitState s u0) 0 (unitNow s u0) .nop).isSome = true) := by decide +kernel

theorem witness_UnitMemoryAndTableInstructions :
    ([Code.rld 0 7 0, .rld 0 7 1, .rst 0 0 0, .rst 0 0 1, .vld 31 0 7 1, .vst 31 0 7 1, .vldx 31 0 7 1, .tb 31 0 0 15 2, .lka 30 0 0 7 1 1,
      .rowop .zero 0 0 0].all fun c => runsIn (unitIn c) u0 c) = true
      ∧ ([Code.tb 30 0 0 0 3, .lka 31 0 0 7 1 0].all fun c => runsIn tested uLast c) = true
      ∧ (let s := unitIn (.rld 0 0 0)
         (windowRow (unitState s u0) 0 (unitNow s u0) false 0).isSome = true ∧ (windowRow (unitState s u0) 0 (unitNow s u0) true 0).isSome = true)
      ∧ (31#5).toNat + (2 ^ (unitNow (unitIn .nop) u0).w - 1) / 16 < 32 ∧ chanHeld R (bankOf uLast) = false ∧ unitExists uLast = true
      ∧ chanHeld (unitIn .nop) (bankOf u0) = true ∧ unitExists ⟨0, 0, 32⟩ = false := by decide +kernel

theorem witness_UnitVectorInstructions :
    ([VecOp.iadd, .isha, .fadd, .fsub, .fmul, .ffma].all fun o => runsIn (unitIn (.vec o 31 30 29)) u0 (.vec o 31 30 29)) = true
      ∧ ([LaneOp.cvti, .cvth, .fred, .fexp2, .frsq, .frcp, .fsilu].all fun o => runsIn (unitIn (.lane o 31 31)) u0 (.lane o 31 31)) = true
      ∧ runsIn (unitIn (.fbc 31 0 7)) u0 (.fbc 31 0 7) = true ∧ runsIn (unitIn (.fq16 31 0 0 1)) u0 (.fq16 31 0 0 1) = true
      ∧ ((lanes32 (vGet (unitNow (unitIn .nop) u0) 0)).all fun v => f32IsNan v || !f32IsNan (f32Mul v 0)) = true := by decide +kernel

theorem witness_RowOperationsWriteTheirRow :
    ([Code.rowop .copy 15 14 0, .rowop .not 0 0 0, .rowop .and 1 2 3, .rowop .or 1 2 3, .rowop .xor 1 2 3, .rowop .maj3 1 2 3].all fun c =>
      runsIn (unitIn c) u0 c) = true := by decide +kernel

/-- Roll of a frame whose pass C leaves each stack one block. -/
def dailyRoll : Machine.State :=
  { roll with objs := [(5, dailyObj)], xlat := [(0, ⟨.stack, false, false, false, 5, 40, 0⟩)], plan := { planZero with dailyClaim := 1 } }

/-- A block's digest is not computed here: it either matches or it does not. -/
theorem witness_RefreshPatrolAndDailiesAct :
    rd0 R (inst STK_REF_STS_TEMP 31) ≤ bits (rd0 R (inst STK_REF_TEMP 31)) 56 8
      ∧ rd0 { R with actCnt := [(actKeyOf (bankOf uLast) 98303, 2048)] } (inst STK_ACT_TH 31)
          ≤ mapGetD ({ R with actCnt := [(actKeyOf (bankOf uLast) 98303, 2048)] } : Machine.State).actCnt (actKeyOf (bankOf uLast) 98303) 0
      ∧ mapGetD R.actCnt (actKeyOf (bankOf uLast) 98303) 0 < rd0 R (inst STK_ACT_TH 31)
      ∧ patrolOpen R (bankOf u0) 0 = true
      ∧ (dailiesRun dailyRoll = true ∧ mapGetD dailyRoll.plan.daily 0 0 < dailyRoom dailyRoll 0 ∧ dailyWaits dailyRoll 0 = false
           ∧ dailyNext dailyRoll 0 = some (5, 0) ∧ blockHeld dailyRoll (objOf dailyRoll 5) 0 = none ∧ maskCopies dailyRoll = []
           ∧ dailyFrom dailyRoll 0 5 31 = some (5, 31) ∧ dailyFrom dailyRoll 0 5 32 = none)
      ∧ (let s := sets [(inst BNK_MODE_PROC 0, 1)] dailyRoll
         dailyNext s 0 = some (5, 0) ∧ blockHeld s (objOf s 5) 0 = some 0 ∧ reloadHeld s (objOf s 5) 0 = some 0)
      ∧ ¬ mapGetD roll.plan.daily 0 0 < dailyRoom roll 0
      ∧ (let s : Machine.State := { roll with frame := { roll.frame with kind := .maint } }
         dailiesRun s = true ∧ mapGetD s.plan.daily 31 0 < dailyRoom s 31 ∧ dailyNext s 31 = none ∧ dailyFrom s 31 0 0 = none ∧ maskCopies s = [])
      ∧ dailyWaits { R with apertureQ := [.dailyCheck ⟨31, []⟩] } 31 = true
      ∧ (objOf { R with objs := [(5, { dailyObj with repairing := [31] })] } 5).repairing.contains 31 = true
      ∧ reloadHeld R { dailyObj with repairing := [31] } 31 = none ∧ R.migs = []
      ∧ masterBytes R dailyObj 31 none = none ∧ (masterBytes R { dailyObj with masterAddr := 64, masterHost := true } 0 (some [])) = none := by decide +kernel

/-- A promotion of an object of one granule, in its board copy. -/
def promoting : Machine.State := { sets [(MIG_CTL_EN, 1)] (mapped R) with objs := [(1, { boardObj with cls := 1, st := .promoting, bands := [3] })] }
/-- A demotion of one, in its stack copy, which was written. -/
def demoting : Machine.State :=
  { sets [(MIG_CTL_EN, 1)] R with
    objs := [(1, { boardObj with cls := 1, st := .demoting, bands := [3] })], xlat := [(0, ⟨.stack, true, true, false, 1, 3, 0⟩)] }

theorem witness_MigrationRelocationAndFillsAct :
    (running promoting = true ∧ mapGet promoting.migs 1 = none ∧ migReady promoting 1 = true
        ∧ passNext promoting (objOf promoting 1) 1 0 = 0 ∧ migReady promoting 65535 = false
        ∧ boardLive promoting 0 = true ∧ boardLive { promoting with boardUsed := [] } 0 = false)
      ∧ (migReady demoting 1 = true ∧ passNext demoting (objOf demoting 1) 1 0 = 0 ∧ (xentOf demoting 0).dirty = true)
      ∧ (let s : Machine.State := { promoting with xlat := [(0, ⟨.stack, true, false, false, 1, 3, 0⟩)] }
         migReady s 1 = true ∧ (objOf s 1).size ≤ passNext s (objOf s 1) 1 0)
      ∧ (let s : Machine.State := { promoting with migs := [(1, ⟨1, 0, true, false, 0⟩)] }; mapGet s.migs 1 = some ⟨1, 0, true, false, 0⟩)
      ∧ (let s := fun st c => ({ R with objs := [(65535, { boardObj with st := st, pass := 1, claims := c })] } : Machine.State)
         mapGet (s .promoting 1).cfg.mach 1 = none ∧ passDone (s .promoting 1) 65535 = true ∧ passDone (s .demoting 0) 65535 = true
           ∧ (objOf (s .demoting 0) 65535).claims = 0
           ∧ (migRecord (s .promoting 1) 65535 3).isSome = true
             ∧ ((migRecord (s .promoting 1) 65535 3).all fun r => r.action ≠ 1 && r.action ≠ 4 && r.action ≠ 5) = true
           ∧ passDone R 65535 = false)
      ∧ (let s : Machine.State := { R with grans := [(granKey (bankOf ⟨31, 29, 31⟩) 40, .retiring)] }
         granOf s (bankOf ⟨31, 29, 31⟩) 40 = .retiring ∧ bound s 31 29 ≤ 40 ∧ (mapGetD s.remap (bankOf ⟨31, 29, 31⟩) []).length < 4
           ∧ relocTarget s (bankOf ⟨31, 29, 31⟩) = some 41)
      ∧ 7 ∈ ({ R with boardFilling := [7] } : Machine.State).boardFilling ∧ 7 ∉ R.boardFilling := by decide +kernel

theorem witness_MigrationRelocationAndFillsAct_amax :
    (let s : Machine.State := { sets [(fldAt STA_AMAX_BASE 3 8, 4096)] roll with reels := [(3, { reelZero with closed := some ([], 1, 2) })], fns := [(0, host)] }
     (reelOf s 3).closed = some ([], 1, 2) ∧ s.frame.kind = .frame ∧ s.frame.phase = .roll ∧ rd0 s (fldAt STA_AMAX_BASE 3 8) ≠ 0
       ∧ confidential s = false
       ∧ canWrite s 0 = true ∧ canWrite { s with fns := [] } 0 = false)
      ∧ (let s : Machine.State := { roll with reels := [(3, { reelZero with closed := some ([], 1, 2) })] }
         (reelOf s 3).closed = some ([], 1, 2) ∧ rd0 s (fldAt STA_AMAX_BASE 3 8) = 0)
      ∧ (reelOf R 3).closed = none := by decide +kernel

theorem witness_ApertureAccessesAct :
    apertureOpen (mapped R) (2 ^ 36 - 4) 4 = true ∧ confidential (sets [(MTP_MODE_MODE, 1)] R) = true ∧ confidential (mapped R) = false
      ∧ apertureOpen (mapped R) (2 ^ 36 - 3) 4 = false
      ∧ rangeHeld (mapped R) (apertureAddr (mapped R) 0x1008) 4 = none ∧ (mapped R).apertureQ.any isAperture = false
      ∧ rangeUnmapped (mapped R) (apertureAddr (mapped R) 0x1008) 4 = false ∧ rangeUnmapped (mapped R) (2 ^ 21 - 1) 2 = true
      ∧ canFail (mapped R) 0x100A = true ∧ 0x100A / 64 ≠ (0x1008 + 64) / 64
      ∧ ({ R with apertureQ := [.apertureWrite 0 [1]] } : Machine.State).apertureQ.any isAperture = true
      ∧ (let s : Machine.State := { sets [(inst BNK_MODE_PROC 0, 1)] R with objs := [(5, dailyObj)], xlat := [(0, ⟨.stack, false, false, false, 5,
        40, 0⟩)] }
         rangeHeld s (apertureAddr s 0) 4 = some 0) := by decide +kernel

/-- A flash part with a block of data, one erased 201 times that is free, and another free one. -/
def flashed : Machine.State :=
  { R with flash := [(64, { flashZero with region := some 2, reads := 999 }), (65, { flashZero with erases := 201 }), (66,
    { flashZero with erases := 7 })] }

theorem witness_AgeingPowerAndFlashAct :
    (let s : Machine.State := { R with ops := { opsZero with slack := some 19 } }
     running s = true ∧ s.ops.slack = some 19 ∧ (19 : Int) < rd0 s AGE_LIM_SLACK_PS ∧ s.ops.block.guard + 5 ≤ 60
       ∧ coreNeed s s.ops.block.ceiling (s.ops.block.guard + 5) ≤ 850)
      ∧ unitExists ⟨31, 29, 31⟩ = true ∧ hasCanary R (bankOf ⟨31, 29, 31⟩) = true ∧ chanHeld R (bankOf ⟨31, 29, 31⟩) = false
      ∧ (effectiveLimit R < 0 + 100000 + 0 ∧ ((effectiveLimit R : Int) - (0 : Nat)) * rd0 R PWR_SPLIT_ARRAY < (100000 : Nat) * 1000
        ∧ rd0 R PWR_LVL_A < 15)
      ∧ ({ R with ops := { opsZero with samples := 1 } } : Machine.State).ops.samples ≠ 0
      ∧ holdsData flashed 64 = true ∧ holdsData flashed 65 = false ∧ freeBlocks flashed = [65, 66] ∧ writeTarget flashed 65 = some 66
      ∧ (⟨65, 1, 1, 1, true⟩ : FlashRead).worst = true ∧ ¬ rd0 flashed FLC_POLICY_READ_LIMIT * 1000 ≤ (flashBlock flashed 64).reads + 1
      ∧ rd0 flashed FLC_POLICY_READ_LIMIT * 1000 ≤ (flashBlock flashed 64).reads + 63001
      ∧ wearSource flashed 0 64 = some 64 ∧ wearTarget flashed 0 0 = some 65 ∧ worn flashed 0 = true ∧ worn flashed 127 = false
      ∧ bootArea 63 = true ∧ bootArea 64 = false ∧ (flashBlock flashed 64).region = some 2 ∧ (flashBlock flashed 65).region = none := by
  decide +kernel

def bootIn (i : CfgImage) : BootIn := ⟨true, true, false, 1, 0, 0, 0, 0, 0, i, [], [], [], true, 0, 0, [], [], 16, 6, 0, []⟩
def baseImg : CfgImage := ⟨true, true, 0, some 0, 0, false, 1, baseRegs, [], [],
  requiredCosts.map fun k => ⟨k.1, k.2, 1, 0, 0⟩, [], 0⟩

theorem baseRegs_named : pages.all (fun p => (pageOwn p).all (namedBy baseRegs)) = true := by decide +kernel
theorem baseRegs_distinct : regsDistinct baseRegs = true := by decide +kernel
/-- The state in which start-up judges the base image. -/
def measured : Machine.State := measureFirmware (wr0 (stage1 { R with sent := [] } (bootIn baseImg)) FLC_STS_BOOT_COPY 1) (bootIn baseImg)
theorem baseRegs_ok : baseRegs.all (regOk measured false) = true := by decide +kernel

theorem witness_PinsAndStartUpAct :
    running R = true ∧ R.pins.boot = .chain
      ∧ (let s : Machine.State := { R with pins := { R.pins with perstN := false } }; s.pins.pwrOk = true ∧ s.pins.perstN = false)
      ∧ ({ R with pins := { R.pins with bootSel := 1 } } : Machine.State).pins.bootSel = 1 ∧ R.pins.bootSel ≠ 1 ∧ R.cfg.copies = 0
      ∧ R.cfg.flashBase = none ∧ bootCopy R (bootIn baseImg) = some 1 ∧ bootCopy R { bootIn baseImg with copyA := false } = none
      ∧ ({ baseImg with sigOk := false } : CfgImage).sigOk = false ∧ (bootIn baseImg).base.sigOk = true ∧ (bootIn baseImg).base.start = []
      ∧ baseOk measured (bootIn baseImg).base = true := by
  refine ⟨rfl, rfl, ⟨rfl, rfl⟩, rfl, by decide, rfl, rfl, by decide +kernel, by decide +kernel, rfl, rfl, rfl, ?_⟩
  have h1 : baseImg.regs.all (regOk measured false) = true := baseRegs_ok
  have h2 : regsDistinct baseImg.regs = true := baseRegs_distinct
  have h3 : namesAll baseImg.regs = true := namesAll_of baseRegs_named
  change baseOk measured baseImg = true
  have h4 : costsOk baseImg.costs = true := by decide +kernel
  have h5 : (requiredCosts.all fun k => baseImg.costs.any fun c => c.table = k.1 && c.key = k.2) = true := by decide +kernel
  rw [baseOk, commonOk, h1, h2, h3, h4, h5]
  rfl

/-- The example of R253: at 80 °C, band 4, and the default Roll of 19,925 µs each bank claims 3,827 commands. -/
theorem test_refresh_claim_at_80 : refreshCount (sets [(inst STK_REF_STS_TEMP 0, 80)] R) 0 = 3827 := by decide +kernel

theorem witness_FunctionsAndTheHostLinkAct :
    R.xfers = [] ∧ tenantOf R 31 = none
      ∧ (let s := sets [(fldAt PCI_FN_BOUND 31 8, 1), (fldAt PCI_FN_TENANT 31 8, 31), (fldAt KEY_SLOT_STATE 31 8, 1)] R
         running s = true ∧ tenantOf s 31 = some 31 ∧ slotState s 31 = 1 ∧ revokeOf s 31 = none ∧ slatesRun s = true)
      ∧ (let s : Machine.State := { sets [(fldAt PCI_FN_BOUND 31 8, 1), (fldAt PCI_FN_TENANT 31 8, 31), (fldAt KEY_SLOT_STATE 31 8, 2)] R with
           trust := { trustZero with revokes := [rvk] } }
         tenantOf s 31 = some 31 ∧ revokeOf s 31 = some rvk)
      ∧ (let s : Machine.State := { R with fns := [(0, { fnZero with inFlr := true, flrAnswer := true }), (31,
        { fnZero with inFlr := true, flrAnswer := true })] }
         (fnOf s 31).flrAnswer = true ∧ rd0 s (fldAt PCI_FN_STRIKING 31 8) ≠ 1 ∧ (fnOf s 0).inFlr = true ∧ s.trust.revokes = [])
      ∧ rd0 (sets [(fldAt PCI_FN_STRIKING 31 8, 1)] R) (fldAt PCI_FN_STRIKING 31 8) = 1
      ∧ (let s := sets [(PCI_LINK_WIDTH, 16), (PCI_LINK_L0P_WIDTH, 16)] roll
         l0pWidths.contains (8#5).toNat = true ∧ (8#5).toNat ≤ rd0 s PCI_LINK_WIDTH ∧ ¬ rd0 s PCI_LINK_L0P_WIDTH ≤ (8#5).toNat
           ∧ s.frame.phase = .roll)
      ∧ (let s : Machine.State := { R with l0p := some 8 }; s.l0p = some 8 ∧ s.frame.phase = .none) := by decide +kernel

theorem witness_DoeSpdmAndTdispAnswer :
    flag (mbx []) MTP_ID_OK = true ∧ flag R MTP_ID_OK = false ∧ mapGet (mbx []).trust.signing 31 = none
      ∧ tdiState R 31 ≠ 1 ∧ tdiState R 31 ≠ 2 ∧ confidential R = false
      ∧ mapGet ({ R with trust := { trustZero with signing := [(31, 9)] } } : Machine.State).trust.signing 31 = some 9
      ∧ (let s := mbx [(MTP_MODE_MODE, 1)]; confidential s = true ∧ tdiState s 31 = 0 ∧ tenantOf s 31 = none)
      ∧ tdiState (mbx [(fldAt PCI_FN_TDISP 31 8, 1)]) 31 = 1 ∧ tdiState (mbx [(fldAt PCI_FN_TDISP 31 8, 2)]) 31 = 2
      ∧ (let s := mbx [(fldAt PCI_FN_TDISP 31 8, 2), (fldAt PCI_FN_BOUND 31 8, 1), (fldAt PCI_FN_TENANT 31 8, 31), (fldAt KEY_SLOT_STATE 31 8, 1)]
         tenantOf s 31 = some 31 ∧ slotState s 31 = 1 ∧ revokeOf s 31 = none ∧ slatesRun s = true ∧ s.xfers = []) := by decide +kernel

theorem witness_I3cCommandsAnswer :
    running R = true ∧ R.ops.i3cAddr = 0 ∧ (let s : Machine.State := { R with ops := { opsZero with i3cAddr := 0x2C, i3cOff := 255 } }; s.ops.i3cAddr ≠ 0 ∧ s.ops.i3cOff + 1 = 256) := by
  decide

theorem witness_TestAccessPortAnswers :
    R.pins.pwrOk = true ∧ ({ R with pins := { R.pins with perstN := false } } : Machine.State).pins.perstN = false ∧ R.pins.perstN = true
      ∧ running R = true
      ∧ confidential R = false ∧ confidential (sets [(MTP_MODE_MODE, 1)] R) = true ∧ diagnostic (sets [(MTP_MODE_MODE, 2)] R) = true
        ∧ diagnostic R = false := by
  decide +kernel

end Sys2Proof.Tests
end

section
/-! SUPPORT. Laws for the statements of the scope: which commands can stop the block, what a read of CSH_LATE_CNT does, and how an ADMIT of a
virtual function without a tenant is refused. -/
namespace Sys2Proof.Machine

open Sys2Proof

/-! ### Which commands stop the block -/

/-- Every arm but REFRESH's is an effect of the form `act` or `actAlways`. -/
theorem exec_next_of_ne_refresh (c : Instr) (s : State) (h : ∀ u, c ≠ .refresh u) :
    ∃ t, exec c s = .next t ∧ t.pending = s.pending := by
  cases c with
  | refresh u => exact absurd rfl (h u)
  | _ => exact ⟨_, rfl, rfl⟩

/-- The guard under which a REFRESH lies outside the thermal specification, in the words of the statements. -/
theorem refreshStops_iff (u : BankId) (s : State) :
    (running s && unitExists u && tooHot s u.stack) = true ↔
      running s = true ∧ u.wf = true ∧ bits (rd0 s (inst STK_REF_TEMP u.stack)) 56 8 < rd0 s (inst STK_REF_STS_TEMP u.stack) := by
  have wf : u.wf = unitExists u := rfl
  simp [wf, tooHot, and_assoc]

theorem exec_refresh_stops {u : BankId} {s : State} (h : (running s && unitExists u && tooHot s u.stack) = true) :
    exec (.refresh u) s = .fault .outOfSpecification := if_pos h

theorem exec_refresh_next {u : BankId} {s : State} (h : ¬(running s && unitExists u && tooHot s u.stack) = true) :
    ∃ t, exec (.refresh u) s = .next t := ⟨_, if_neg h⟩

/-- What every pass of a loop leaves as it was, the loop leaves as it was. -/
theorem forEach_keeps {α σ β : Type} (g : σ → β) {f : σ → α → σ} (h : ∀ s x, g (f s x) = g s) (xs : List α) (s : σ) :
    g (forEach xs s f) = g s := by
  induction xs generalizing s with
  | nil => rfl
  | cons x xs ih => exact (ih (f s x)).trans (h s x)

theorem countWaits_pending (s : State) : (countWaits s).pending = s.pending :=
  forEach_keeps State.pending (fun s a => by split <;> rfl) _ s

@[simp] theorem idle_pending (s : State) : (idle s).pending = s.pending := by
  unfold idle
  split
  · rw [countWaits_pending]
    split <;> split <;> rfl
  · rfl

/-- A step of a state whose queue holds no REFRESH answers a next state whose queue holds none. -/
theorem step_next_of_no_refresh {s : State} (h : ∀ u, Instr.refresh u ∉ s.pending) :
    ∃ t, step s = .next t ∧ ∀ u, Instr.refresh u ∉ t.pending := by
  cases hp : s.pending with
  | nil => exact ⟨idle s, step_nil hp, by simp [hp]⟩
  | cons c cs =>
    rw [hp] at h
    have hc : ∀ u, c ≠ .refresh u := fun u e => h u (e ▸ List.mem_cons_self)
    obtain ⟨t, ht, hq⟩ := exec_next_of_ne_refresh c { s with pending := cs } hc
    refine ⟨t, (step_cons hp).trans ht, fun u hu => h u ?_⟩
    rw [hq] at hu
    exact List.mem_cons_of_mem c hu

/-! ### The register of CSH_LATE_CNT (R5, R431) -/

theorem exec_readToClear {fn off : Nat} {s : State} (hrun : running s = true) (hfn : fn < 32) :
    exec (.readToClear fn off) s = .next { readRegister { s with sent := [] } fn off with pending := s.pending } := by
  change execReadToClear fn off s = _
  rw [execReadToClear, act_running _ hrun, if_pos hfn]

/-- CSH_LATE_CNT as a read of its offset finds it: its page, and its row of the register table. -/
def lateCntHit : Hit :=
  ⟨⟨0x2000, 0x0003, 1, specsCsh, true, none⟩, 0x2000, ⟨CSH_LATE_CNT, 1, 0, 1, 0, .rc, .none, .phys, .plain⟩, CSH_LATE_CNT⟩

theorem pageAt_lateCnt : pageAt CSH_LATE_CNT.addr = some (lateCntHit.page, lateCntHit.base) := by decide +kernel

/-- CSH_LATE_CNT is the only field of its register. -/
theorem hitsAt_lateCnt : hitsAt CSH_LATE_CNT.addr = [lateCntHit] := by decide +kernel

/-- The field shows no other state: it reads as it is held. -/
theorem viewField_lateCnt {s : State} (hp : pendingOf s 0 CSH_LATE_CNT = none) :
    viewField s 0 lateCntHit = rd0 s CSH_LATE_CNT % 2 ^ 32 := by
  have hpage : pageView s 0 CSH_LATE_CNT = none := rfl
  have harr : arrayView s 0 CSH_LATE_CNT = none := rfl
  have hcopy : copyOf 0 lateCntHit.spec = 0 := rfl
  have hfld : lateCntHit.fld = CSH_LATE_CNT := rfl
  have hbase : lateCntHit.base = 0x2000 := rfl
  have hacc : lateCntHit.spec.acc = .rc := rfl
  have htype : lateCntHit.page.type = 3 := rfl
  have hwidth : CSH_LATE_CNT.width = 32 := rfl
  simp [viewField, hcopy, hfld, hp, hpage, harr, hbase, hacc, htype, hwidth, rd0]

theorem readReg_lateCnt {s : State} (hp : pendingOf s 0 CSH_LATE_CNT = none) :
    readReg s 0 CSH_LATE_CNT.addr = rd0 s CSH_LATE_CNT % 2 ^ 32 := by
  have hs : sheetAt s 0 CSH_LATE_CNT.addr = none := rfl
  have ho : reachOff 0 CSH_LATE_CNT.addr = some CSH_LATE_CNT.addr := rfl
  have hd : headerView s 0 lateCntHit.page lateCntHit.base (CSH_LATE_CNT.addr % 0x1000 / 8 * 8) = 0 := rfl
  have hl : lateCntHit.fld.lsb = 0 := rfl
  have hsee : sees 0 lateCntHit = true := rfl
  simp [readReg, hs, ho, pageAt_lateCnt, hitsAt_lateCnt, hd, hsee, hl, viewField_lateCnt hp]

theorem readRegister_lateCnt {s : State} (hp : pendingOf s 0 CSH_LATE_CNT = none) :
    readRegister s 0 CSH_LATE_CNT.addr = send (wr0 s CSH_LATE_CNT 0) (.readData (leBytes 8 (rd0 s CSH_LATE_CNT % 2 ^ 32))) := by
  have hs : sheetAt s 0 CSH_LATE_CNT.addr = none := rfl
  have ho : reachOff 0 CSH_LATE_CNT.addr = some CSH_LATE_CNT.addr := rfl
  have hc : clearRc s 0 lateCntHit = wr0 s CSH_LATE_CNT 0 := rfl
  simp [readRegister, readReg_lateCnt hp, hs, ho, hitsAt_lateCnt, forEach, hc]

/-! ### A refused ADMIT that counts (R281) -/

theorem exec_admitEntry_reads {s : State} {h : CmdHdr} (hr : ReadsRing s h) (e : W16) (img : Option AdmitImage) (ue : List Nat) :
    exec (.admitEntry h e img ue) s =
      .next { applyAdmit h e img ue (afterRead s h) (cmdId { s with sent := [] } h 0x01 (some e.toNat)) with pending := s.pending } := by
  obtain ⟨hrun, hopen, hready⟩ := hr
  have hw : (slateOpen { s with sent := [] } && sqReady { s with sent := [] } h.fn h.ring) = true := by
    change (slateOpen s && sqReady s h.fn h.ring) = true
    simp [hopen, hready]
  change execAdmitEntry h e img ue s = _
  rw [execAdmitEntry, act_running _ hrun, submit_applies _ _ _ _ hw]
  rfl

/-- A virtual function without a tenant may name no unified address. -/
theorem mayName_of_unbound {s : State} {fn : Nat} (hfn : fn ≠ 0) (hu : tenantOf s fn = none) (a : Nat) : mayName s fn a false = false := by
  simp only [mayName, hfn, if_false, hu]
  split <;> simp

/-- So an image of it whose page-list pointer is a unified address names one that it may not name. -/
theorem admitNames_of_unbound {s : State} {h : CmdHdr} (hfn : h.fn ≠ 0) (hu : tenantOf s h.fn = none) {i : AdmitImage}
    (ha : i.plPtr.toNat % 8 = 0) (hw : wideBits i.plPtr.toNat = false) : admitNames s h i = true := by
  simp [admitNames, hfn, imageEntry, ha, hw, mayName_of_unbound hfn hu]

theorem refusal_of_denied {k : Checks} (h : k.denied = true) : refusal k = some stDenied := by simp [refusal, h]

/-- Its ADMIT concludes with DENIED, and counts an address that it may not name (R11, R281). -/
theorem applyAdmit_unbound {s : State} {h : CmdHdr} (hfn : h.fn ≠ 0) (hu : tenantOf s h.fn = none) (e : W16) (i : AdmitImage) (c : CmdId) :
    applyAdmit h e (some i) [] s c = conclude (if admitNames s h i then bump0 s UMR_DENY_CNT 1 else s) c stDenied := by
  have hd : (admitChecks0 s h e.toNat).denied = true := by simp [admitChecks0, unbound, hfn, hu]
  have hg : ∀ (r : State) (k : Checks) (f : State → State),
      guarded r c (bothChecks (bothChecks (admitChecks0 s h e.toNat) (admitChecks1 s h i)) k) f = conclude r c stDenied :=
    fun r k f => guarded_refused (refusal_of_denied (by simp [bothChecks, hd]))
  simp [applyAdmit, readsBad, hg]

theorem admitEntry_unbound_counts {s t : State} {h : CmdHdr} (hr : ReadsRing s h) (hfn : h.fn ≠ 0)
    (hu : tenantOf (afterRead s h) h.fn = none) {e : W16} {i : AdmitImage} (ha : i.plPtr.toNat % 8 = 0) (hw : wideBits i.plPtr.toNat = false)
    (ht : exec (.admitEntry h e (some i) []) s = .next t) :
    rd0 t UMR_DENY_CNT = min (rd0 (afterRead s h) UMR_DENY_CNT + 1) (2 ^ UMR_DENY_CNT.width - 1) := by
  rw [exec_admitEntry_reads hr, applyAdmit_unbound hfn hu, admitNames_of_unbound hfn hu ha hw, if_pos rfl] at ht
  injection ht with ht
  have hregs : t.regs = (bump (afterRead s h) 0 UMR_DENY_CNT 1).regs := by rw [← ht]; rfl
  exact (rd_congr hregs 0 UMR_DENY_CNT).trans (rd_bump_same _ _ _ _)

/-! ### The mailbox -/

/-- What a TENANT_REMOVE leaves in the registers is what the mailbox leaves there. -/
theorem exec_tenantRemove_regs {s t : State} {seq : Byte} (hrun : running s = true) (ht : exec (.tenantRemove seq) s = .next t) :
    t.regs = (mailbox { s with sent := [] } 2 seq).regs := by
  change execTenantRemove seq s = .next t at ht
  rw [execTenantRemove, act_running _ hrun] at ht
  injection ht with ht
  rw [← ht]

end Sys2Proof.Machine
end

section
/-! SUPPORT. The proofs and refutations of the statements of the scope (00). -/
namespace Sys2Proof.Proofs

open Sys2Proof.Machine

/-! ### Which commands stop the block (R14) -/

theorem safeFor_of_no_refresh (n : Nat) (s : Machine.State) (h : ∀ u, Instr.refresh u ∉ s.pending) : SafeFor n s := by
  induction n generalizing s with
  | zero => trivial
  | succ n ih =>
    obtain ⟨t, ht, hq⟩ := step_next_of_no_refresh h
    exact ⟨t, ht, ih t hq⟩

/-- Settles O5: the absence of a REFRESH from the queue is an invariant under which a step answers a next state. -/
theorem runsWithoutRefreshNeverStop : Obligations.RunsWithoutRefreshNeverStop := safeFor_of_no_refresh

/-- Settles O4, by the form of each arm and the guard of REFRESH's. -/
theorem onlyRefreshOutOfSpecificationStops : Obligations.OnlyRefreshOutOfSpecificationStops := by
  refine ⟨fun c s h => ?_, fun u s => ?_⟩
  · obtain ⟨t, ht, -⟩ := exec_next_of_ne_refresh c s h
    exact ⟨t, ht⟩
  · split
    next h => exact exec_refresh_stops ((refreshStops_iff u s).2 h)
    next h => exact exec_refresh_next (mt (refreshStops_iff u s).1 h)

/-! ### Reads that clear (R5) -/

/-- Settles O25: the register of CSH_LATE_CNT holds that RC field alone, so a read returns it and writes its reset value. -/
theorem readsClearTheirCounters : Obligations.ReadsClearTheirCounters := by
  intro s hrun hlt hp
  refine ⟨_, exec_readToClear hrun (by decide), rfl, ?_⟩
  have hp' : pendingOf { s with sent := [] } 0 CSH_LATE_CNT = none := hp
  have hr : rd0 { s with sent := [] } CSH_LATE_CNT = rd0 s CSH_LATE_CNT := rfl
  rw [readRegister_lateCnt hp', hr, Nat.mod_eq_of_lt hlt]
  refine ⟨rfl, ?_, ?_, rfl⟩
  · exact rd0_wr0_same { s with sent := [] } CSH_LATE_CNT 0
  · intro fn f hk
    exact rd_wr_ne { s with sent := [] } 0 CSH_LATE_CNT 0 fn f (by simpa using hk)

/-! ### Functions without a tenant (R11, R281, R380) -/

/-- A command of ring 0 of function 1. -/
def hdr1 : CmdHdr := ⟨1, 0, 0, false⟩

/-- A Slate that reads ring 0 of function 1, to which no tenant is bound. -/
def slate1 : Machine.State :=
  { wr State.reset 1 (sqFld PCI_SQ_EN 0) 1 with
    frame := { frameZero with phase := .slate, kind := .frame }, fns := [(1, { fnZero with bme := true, latched := [1, 0, 0, 0] })] }

/-- An image all of zeros: its page-list pointer names the unified address 0, where nothing is mapped. -/
def image1 : AdmitImage := ⟨0, 0, 0, 0, 0, 0, 0, 0, 0, 0, 0, 0, 0, 0, 0, 0, 0, 0, false⟩

theorem slate1_reads : ReadsRing slate1 hdr1 := ⟨rfl, rfl, by decide +kernel⟩

theorem slate1_unbound : tenantOf (afterRead slate1 hdr1) hdr1.fn = none := by decide +kernel

theorem slate1_denyCnt : rd0 (afterRead slate1 hdr1) UMR_DENY_CNT = 0 := by decide +kernel

/-- Refutes O29: a refusal under R281 counts in UMR_DENY_CNT (R11 excepts the error counters that record a refusal), and every address that an
ADMIT of a virtual function without a tenant names is refused so. -/
theorem not_unboundFunctionsAreDenied : ¬ Obligations.UnboundFunctionsAreDenied := by
  intro h
  obtain ⟨t, ht, -, hsame, -⟩ := h (.admitEntry hdr1 0 (some image1) []) hdr1 slate1 rfl slate1_reads (by decide) slate1_unbound
  have hregs := congrArg State.regs hsame
  have hkept : rd0 t UMR_DENY_CNT = 0 := (rd_congr hregs 0 UMR_DENY_CNT).trans slate1_denyCnt
  have hcounted := admitEntry_unbound_counts slate1_reads (by decide) slate1_unbound rfl rfl ht
  rw [hkept, slate1_denyCnt] at hcounted
  exact absurd hcounted (by decide)

/-! ### The mailbox (R418, R423) -/

/-- A PEER write of tenant 0's object at address 0, held as taken from queue 513 of the physical function. A function has eight queues, but the
state's form admits the number, and the HEAD of queue 513 would lie at 0x7118 + 32 * 513 = 0xB138, where MTP_MBX_BUSY lies. -/
def strayXfer : PeerXfer :=
  { engine := 0, fn := 0, queue := 513, write := true, data := [], waiting := false, pieces := [], status := 0, damaged := 0, firstBad := none
    desc := { op := 1, stopOnErr := false, event := false, srcSpace := 1, dstSpace := 2, peer := 1, cwidth := 0, f32 := false, lastRowsM1 := 0
              blockCnt := 0, srcAddr := 0, dstAddr := 0, srcLen := 0, dstLen := 0, userTag := 0, devBits := false } }

/-- A device with its identity, tenant 0's slot ACTIVE, and that transfer in progress. -/
def strayState : Machine.State :=
  { wr0 (wr0 State.reset MTP_ID_OK 1) (fldAt KEY_SLOT_STATE 0 8) 1 with
    objs := [(0, { objZero with st := .package, size := 1 })], xlat := [(0, ⟨.stack, false, false, false, 0, 0, 0⟩)], xfers := [strayXfer] }

/-- The abort has counted the BUSY that the command set up to 2. -/
theorem strayState_busy : rd0 (mailbox { strayState with sent := [] } 2 0) MTP_MBX_BUSY = 2 := by decide +kernel

/-- Refutes O39, in its clause on TENANT_REMOVE: the revocation aborts the transfer, and the HEAD that the abort advances is that of queue 513, so
BUSY reads 2. The statement has no premise that the transfers in progress name queues that exist. -/
theorem not_mailboxCommandsConclude : ¬ Obligations.MailboxCommandsConclude := by
  intro h
  obtain ⟨hid, -⟩ := h 0 strayState rfl (by decide +kernel)
  obtain ⟨-, hremove, -⟩ := hid (by decide +kernel)
  obtain ⟨t, ht, -, hbusy, -⟩ := hremove (by decide +kernel) (by decide +kernel) (by decide +kernel)
  have hafter : rd0 t MTP_MBX_BUSY = 2 := (rd_congr (exec_tenantRemove_regs rfl ht) 0 MTP_MBX_BUSY).trans strayState_busy
  rw [hafter] at hbusy
  exact absurd hbusy (by decide)

end Sys2Proof.Proofs
end
